-- ==== Sys2Proof/Word.lean ====
section
/-! DEFINITION. The word types of the machine and their plainest arithmetic (00_scope rules R10, R14). -/

namespace Sys2Proof

/-- A byte, the unit of memory and of instructions (R14, R80). -/
abbrev Byte := BitVec 8

/-- A 64-bit word: an address, a general register, a control register, an opmask (R15). -/
abbrev Qword := BitVec 64

/-- A vector register's storage: the widest `MAXVL` the spec admits (R6, R55). -/
abbrev VReg := BitVec 512

/-- A physical x87 register, whose bits 63:0 are an MMX register (R61). -/
abbrev X87Reg := BitVec 80

/-- The low 32 bits of a word, zero-extended (the address arithmetic of rules R96 and R134). -/
def low32 (v : Qword) : Qword := (v.setWidth 32).setWidth 64

end Sys2Proof
end

