-- ==== Sys2Proof/Machine/Lanes.lean ====
section
/-! DEFINITION. The arithmetic of the family, lane by lane (00_scope rules R16 to R22), and the intrinsics' meaning
(30_encoding rule R164). -/

namespace Sys2Proof.Machine

/-- `smax_N(a, b)`: `a` if `toInt_N(a) > toInt_N(b)`, `b` otherwise (R16, R17). -/
def smax {N : Nat} (a b : BitVec N) : BitVec N :=
  if a.toInt > b.toInt then a else b

/-- Lane `j` of `N` bits: `v[jN+N-1 : jN]` (R10). -/
def lane {VL : Nat} (N : Nat) (v : BitVec VL) (j : Nat) : BitVec N :=
  v.extractLsb' (j * N) N

/-- The value whose lane `j` is `f j` for `j < n`, and whose bits above are 0. -/
def packLanes (N VL : Nat) (f : Nat → BitVec N) : Nat → BitVec VL
  | 0 => 0
  | n + 1 => packLanes N VL f n ||| ((f n).setWidth VL <<< (n * N))

/-- `PMAXS(N, VL, a, b)` (R19). -/
def pmaxs (N VL : Nat) (a b : BitVec VL) : BitVec VL :=
  packLanes N VL (fun j => smax (lane N a j) (lane N b j)) (VL / N)

/-- `BCAST(N, VL, e)` (R20). -/
def bcast (N VL : Nat) (e : BitVec N) : BitVec VL :=
  packLanes N VL (fun _ => e) (VL / N)

/-- Does the mask let lane `j` be written (R21)? -/
def laneActive (k : Qword) (masked : Bool) (j : Nat) : Bool :=
  !masked || k.getLsbD j

/-- `MASKED(N, VL, r, old, k, masked, z)` (R21). -/
def maskMerge (N VL : Nat) (r old : BitVec VL) (k : Qword) (masked z : Bool) : BitVec VL :=
  packLanes N VL
    (fun j => if laneActive k masked j then lane N r j else if z then 0 else lane N old j) (VL / N)

/-- The `max` intrinsics (30_encoding R163, R164). -/
def intrinsicMax (N VL : Nat) (a b : BitVec VL) : BitVec VL :=
  pmaxs N VL a b

/-- The `mask_max` intrinsics (30_encoding R164). -/
def intrinsicMaskMax (N VL : Nat) (s : BitVec VL) (k : Qword) (a b : BitVec VL) : BitVec VL :=
  maskMerge N VL (pmaxs N VL a b) s k true false

/-- The `maskz_max` intrinsics (30_encoding R164). -/
def intrinsicMaskzMax (N VL : Nat) (k : Qword) (a b : BitVec VL) : BitVec VL :=
  maskMerge N VL (pmaxs N VL a b) 0 k true true

end Sys2Proof.Machine
end

