-- ==== Sys2Proof/Config.lean ====
section
/-! DEFINITION. The parameters of the configured machine as data types (00_scope rules R6 to R9, 60_exceptions rule
R240), and the free values: constants with no body, so that nothing can be proved of the value they give. -/

namespace Sys2Proof

/-- The operating mode. `long64` and `prot32` are the two modes of R240; a step in any other refuses (D1). -/
inductive Mode where
  | long64
  | prot32
  | realAddress
  | virtual8086
  | systemManagement
  | code16
  deriving DecidableEq, Repr

/-- A CPUID feature flag a row of the opcode table names (R2). -/
inductive Feature where
  | sse
  | sse2
  | sse41
  | avx
  | avx2
  | avx512f
  | avx512bw
  | avx512vl
  deriving DecidableEq, Repr

/-- The set `Features` of R7, one flag each. -/
structure Features where
  sse : Bool
  sse2 : Bool
  sse41 : Bool
  avx : Bool
  avx2 : Bool
  avx512f : Bool
  avx512bw : Bool
  avx512vl : Bool
  deriving DecidableEq, Repr

namespace Config

/-- FREE VALUE (log 14): whether, at this step, the processor keeps quiet about a memory fault of this byte of the operand,
where the byte belongs only to masked-off elements (20_memory rule R94, decision D9: both behaviours are admitted). -/
opaque suppressMaskedFaults : Nat → Nat → Bool

/-- FREE VALUE (log 15): which of the conditions of priority level 6 that hold together is reported (60_exceptions
rule R229, decision D24). -/
opaque levelSixChoice : Nat → Nat

/-- FREE VALUE (log 16): which of the operand's faulting bytes a page fault reports, and so which page (20_memory rule
R98). -/
opaque pageFaultChoice : Nat → Nat

/-- FREE VALUE (log 22): whether, at this step, one more write of another processor becomes visible (20_memory rule R101, the
read oracle of 60_exceptions rule R246 (a)). -/
opaque landingGoesOn : Nat → Nat → Bool

/-- FREE VALUE (log 22): which of the writes that may be next becomes visible (20_memory rule R101: writes from different
processors are not ordered). -/
opaque landingChoice : Nat → Nat → Nat

/-- FREE VALUE (log 28): how many of the writes that become visible during a step the read of a byte at a physical address does
not see yet (20_memory rule R93: the order of the byte reads is open). -/
opaque readAge : Nat → Nat → Nat

/-- FREE VALUE (log 12): the XSAVE in-use bits a write to a vector register sets (10_state rule R66 (c), "may set"). -/
opaque xinuseChoice : Nat → Qword

/-- FREE VALUE (log 20): `R8` to `R15` after INIT, which the spec leaves unspecified (10_state rule R70). -/
opaque extendedAfterInit : Nat → Fin 8 → Qword

end Config

end Sys2Proof
end

