-- ==== Sys2Proof/Syntax.lean ====
section
/-! DEFINITION. The instructions, one constructor per row of spec/opcode_table.json (30_encoding rules R141 to R146),
with their operands as a decoder reads them. Bits that the processor ignores are not kept (log 29). -/

namespace Sys2Proof

/-- A segment register (10_state rule R50). -/
inductive SegName where
  | es
  | cs
  | ss
  | ds
  | fs
  | gs
  deriving DecidableEq, Repr

/-- The prefixes before the first fixed byte (30_encoding rules R111, R113). `opsize` is `66`, `repne` is `F2`, `rep` is
`F3`, `addrsize` is `67`, `lock` is `F0`; `rex` says that a REX byte stands directly before the opcode or before a VEX or
EVEX prefix. What REX says is in the register numbers. -/
structure Prefixes where
  lock : Bool
  repne : Bool
  rep : Bool
  opsize : Bool
  addrsize : Bool
  seg : Option SegName
  rex : Bool
  deriving DecidableEq, Repr

/-- The displacement that follows ModRM or SIB where a base register is used (30_encoding rule R134): none (`mod = 00b`), one
byte (`01b`), four bytes (`10b`). -/
inductive Disp where
  | none
  | disp8 (b : Byte)
  | disp32 (d : BitVec 32)
  deriving DecidableEq, Repr

/-- A memory operand, by the shapes of rule R134. -/
inductive MemOperand where
  /-- a base register, no SIB byte -/
  | base (r : Fin 16) (disp : Disp)
  /-- a SIB byte with a base register; `index = none` is "no index" -/
  | sib (scale : Fin 4) (index : Option (Fin 16)) (r : Fin 16) (disp : Disp)
  /-- a SIB byte without a base register -/
  | sibNoBase (scale : Fin 4) (index : Option (Fin 16)) (d : BitVec 32)
  /-- relative to the next instruction (`Long64` only, rule R136) -/
  | pcRelative (d : BitVec 32)
  /-- absolute (`Prot32` only, rule R136) -/
  | absolute (d : BitVec 32)
  deriving DecidableEq, Repr

/-- The second source, `ModRM:r/m`: one of `n` registers, or memory (20_memory rule R82). -/
inductive Source (n : Nat) where
  | reg (r : Fin n)
  | mem (m : MemOperand)
  deriving DecidableEq, Repr

/-- Op/En A on MMX registers (row 1). -/
structure MmxOperands where
  pfx : Prefixes
  d : Fin 8
  src : Source 8
  deriving DecidableEq, Repr

/-- Op/En A on vector registers (rows 2 to 4, rule R141). -/
structure SseOperands where
  pfx : Prefixes
  d : Fin 16
  src : Source 16
  deriving DecidableEq, Repr

/-- Op/En B (rows 5 to 10, rule R142). -/
structure VexOperands where
  pfx : Prefixes
  d : Fin 16
  s1 : Fin 16
  src : Source 16
  deriving DecidableEq, Repr

/-- Op/En C and D (rows 11 to 22, rules R143, R144): `aaa` names the writemask, `z` selects zeroing, `b` is `EVEX.b`
(rules R130, R131). -/
structure EvexOperands where
  pfx : Prefixes
  d : Fin 32
  s1 : Fin 32
  src : Source 32
  aaa : Fin 8
  z : Bool
  b : Bool
  deriving DecidableEq, Repr

/-- The instructions: one constructor per row of the opcode table. The number of the row of rule R145 stands beside each;
`Short` is the two-byte VEX encoding of the same form. -/
inductive Instr where
  | pmaxswMmx (o : MmxOperands)               -- row 1
  | pmaxsbXmm (o : SseOperands)               -- row 2
  | pmaxswXmm (o : SseOperands)               -- row 3
  | pmaxsdXmm (o : SseOperands)               -- row 4
  | vpmaxsbVex128 (o : VexOperands)           -- row 5
  | vpmaxswVex128 (o : VexOperands)           -- row 6, VEX3
  | vpmaxswVex128Short (o : VexOperands)      -- row 6, VEX2
  | vpmaxsdVex128 (o : VexOperands)           -- row 7
  | vpmaxsbVex256 (o : VexOperands)           -- row 8
  | vpmaxswVex256 (o : VexOperands)           -- row 9, VEX3
  | vpmaxswVex256Short (o : VexOperands)      -- row 9, VEX2
  | vpmaxsdVex256 (o : VexOperands)           -- row 10
  | vpmaxsbEvex128 (o : EvexOperands)         -- row 11
  | vpmaxsbEvex256 (o : EvexOperands)         -- row 12
  | vpmaxsbEvex512 (o : EvexOperands)         -- row 13
  | vpmaxswEvex128 (o : EvexOperands)         -- row 14
  | vpmaxswEvex256 (o : EvexOperands)         -- row 15
  | vpmaxswEvex512 (o : EvexOperands)         -- row 16
  | vpmaxsdEvex128 (o : EvexOperands)         -- row 17
  | vpmaxsdEvex256 (o : EvexOperands)         -- row 18
  | vpmaxsdEvex512 (o : EvexOperands)         -- row 19
  | vpmaxsqEvex128 (o : EvexOperands)         -- row 20
  | vpmaxsqEvex256 (o : EvexOperands)         -- row 21
  | vpmaxsqEvex512 (o : EvexOperands)         -- row 22
  deriving DecidableEq, Repr

end Sys2Proof
end

