-- ==== Sys2Proof/Machine/Length.lean ====
section
/-! DEFINITION. The length of an instruction in bytes (30_encoding rule R147): `len = p + r + o + 1 + sib + disp`. -/

namespace Sys2Proof

/-- Bytes of a displacement (R147, step 5). -/
def Disp.length : Disp → Nat
  | .none => 0
  | .disp8 _ => 1
  | .disp32 _ => 4

/-- Bytes of SIB and displacement (R147, step 5). -/
def MemOperand.length : MemOperand → Nat
  | .base _ d => d.length
  | .sib _ _ _ d => 1 + d.length
  | .sibNoBase _ _ _ => 5
  | .pcRelative _ => 4
  | .absolute _ => 4

/-- Bytes that follow ModRM. -/
def Source.length {n : Nat} : Source n → Nat
  | .reg _ => 0
  | .mem m => m.length

/-- `p + r`: the prefix bytes, REX included (R147, steps 1 and 2). -/
def Prefixes.length (p : Prefixes) : Nat :=
  p.lock.toNat + p.repne.toNat + p.rep.toNat + p.opsize.toNat + p.addrsize.toNat + p.seg.isSome.toNat + p.rex.toNat

/-- The length of a form whose opcode bytes, before ModRM, are `o` many. -/
def formLength {n : Nat} (o : Nat) (p : Prefixes) (src : Source n) : Nat :=
  p.length + o + 1 + src.length

/-- The length of an instruction (R147): `o` is 2 or 3 in the legacy layout, 4 in VEX3, 3 in VEX2, 5 in EVEX. -/
def Instr.length : Instr → Nat
  | .pmaxswMmx o => formLength 2 o.pfx o.src
  | .pmaxsbXmm o => formLength 3 o.pfx o.src
  | .pmaxswXmm o => formLength 2 o.pfx o.src
  | .pmaxsdXmm o => formLength 3 o.pfx o.src
  | .vpmaxsbVex128 o => formLength 4 o.pfx o.src
  | .vpmaxswVex128 o => formLength 4 o.pfx o.src
  | .vpmaxswVex128Short o => formLength 3 o.pfx o.src
  | .vpmaxsdVex128 o => formLength 4 o.pfx o.src
  | .vpmaxsbVex256 o => formLength 4 o.pfx o.src
  | .vpmaxswVex256 o => formLength 4 o.pfx o.src
  | .vpmaxswVex256Short o => formLength 3 o.pfx o.src
  | .vpmaxsdVex256 o => formLength 4 o.pfx o.src
  | .vpmaxsbEvex128 o => formLength 5 o.pfx o.src
  | .vpmaxsbEvex256 o => formLength 5 o.pfx o.src
  | .vpmaxsbEvex512 o => formLength 5 o.pfx o.src
  | .vpmaxswEvex128 o => formLength 5 o.pfx o.src
  | .vpmaxswEvex256 o => formLength 5 o.pfx o.src
  | .vpmaxswEvex512 o => formLength 5 o.pfx o.src
  | .vpmaxsdEvex128 o => formLength 5 o.pfx o.src
  | .vpmaxsdEvex256 o => formLength 5 o.pfx o.src
  | .vpmaxsdEvex512 o => formLength 5 o.pfx o.src
  | .vpmaxsqEvex128 o => formLength 5 o.pfx o.src
  | .vpmaxsqEvex256 o => formLength 5 o.pfx o.src
  | .vpmaxsqEvex512 o => formLength 5 o.pfx o.src

/-- The longest instruction the processor takes (30_encoding rule R110, 20_memory rule R92). -/
def maxLength : Nat := 15

end Sys2Proof
end

