-- ==== Sys2Proof/WellFormed.lean ====
section
/-! DEFINITION. Which terms of Instr are instructions of a mode: the ones some bytes of that mode decode to
(30_encoding rules R111, R113, R119, R121, R127, R134 to R138, R147). -/

namespace Sys2Proof

/-- No register above 7: what an encoding without extension bits can name (R113, R119, R121, R127). -/
def lowIndex : Option (Fin 16) → Bool
  | none => true
  | some i => i.val < 8

/-- No base or index register above 7. -/
def MemOperand.low : MemOperand → Bool
  | .base r _ => r.val < 8
  | .sib _ i r _ => lowIndex i && r.val < 8
  | .sibNoBase _ i _ => lowIndex i
  | .pcRelative _ => true
  | .absolute _ => true

/-- No register above 7 in the second source. -/
def Source.low {n : Nat} : Source n → Bool
  | .reg r => r.val < 8
  | .mem m => m.low

/-- `mod = 00b` with base low bits `101b` is another shape, so a base of those bits has a displacement (R134, R135). -/
def baseNeedsDisp (r : Fin 16) : Disp → Bool
  | .none => r.val % 8 != 5
  | _ => true

/-- The shapes R134 gives a memory operand in a mode: index number 4 is "no index", base low bits `100b` need a SIB byte,
relative addressing is `Long64`'s and absolute addressing `Prot32`'s (R136). -/
def MemOperand.shaped (mode : Mode) : MemOperand → Bool
  | .base r d => r.val % 8 != 4 && baseNeedsDisp r d
  | .sib _ i r d => i != some 4 && baseNeedsDisp r d
  | .sibNoBase _ i _ => i != some 4
  | .pcRelative _ => mode == .long64
  | .absolute _ => mode == .prot32

/-- The second source has a shape the mode encodes, with registers above 7 only where `ext` extension bits exist. -/
def Source.wf {n : Nat} (mode : Mode) (ext : Bool) (s : Source n) : Bool :=
  (match s with
    | .reg _ => true
    | .mem m => m.shaped mode) && (ext || s.low)

/-- The prefixes a mode admits at all: `Long64` has no `ES`, `CS`, `SS`, `DS` override (R137, D19); `Prot32` has no REX
(R113) and no `67` (R138, D2). -/
def Prefixes.wf (mode : Mode) (p : Prefixes) : Bool :=
  match mode with
  | .long64 => p.seg == none || p.seg == some .fs || p.seg == some .gs
  | .prot32 => !p.rex && !p.addrsize
  | _ => false

/-- A legacy layout has `66` exactly when its opcode string has it, and neither `F2` nor `F3` (R111, R112, R152). -/
def Prefixes.legacy (opsize : Bool) (p : Prefixes) : Bool :=
  p.opsize == opsize && !p.repne && !p.rep

def MmxOperands.wf (mode : Mode) (o : MmxOperands) : Bool :=
  o.pfx.wf mode && o.pfx.legacy false
    && (match o.src with
      | .reg _ => true
      | .mem _ => o.src.wf mode o.pfx.rex)

def SseOperands.wf (mode : Mode) (o : SseOperands) : Bool :=
  o.pfx.wf mode && o.pfx.legacy true && (o.pfx.rex || o.d.val < 8) && o.src.wf mode o.pfx.rex

/-- `short` is the two-byte VEX prefix, which has neither `X` nor `B` (R119). -/
def VexOperands.wf (mode : Mode) (short : Bool) (o : VexOperands) : Bool :=
  o.pfx.wf mode && (mode == .long64 || (o.d.val < 8 && o.s1.val < 8)) && o.src.wf mode (mode == .long64 && !short)

def EvexOperands.wf (mode : Mode) (o : EvexOperands) : Bool :=
  o.pfx.wf mode && (mode == .long64 || (o.d.val < 8 && o.s1.val < 8)) && o.src.wf mode (mode == .long64)

/-- The checks on the operands of each form. -/
def Instr.shaped (mode : Mode) : Instr → Bool
  | .pmaxswMmx o => o.wf mode
  | .pmaxsbXmm o => o.wf mode
  | .pmaxswXmm o => o.wf mode
  | .pmaxsdXmm o => o.wf mode
  | .vpmaxsbVex128 o => o.wf mode false
  | .vpmaxswVex128 o => o.wf mode false
  | .vpmaxswVex128Short o => o.wf mode true
  | .vpmaxsdVex128 o => o.wf mode false
  | .vpmaxsbVex256 o => o.wf mode false
  | .vpmaxswVex256 o => o.wf mode false
  | .vpmaxswVex256Short o => o.wf mode true
  | .vpmaxsdVex256 o => o.wf mode false
  | .vpmaxsbEvex128 o => o.wf mode
  | .vpmaxsbEvex256 o => o.wf mode
  | .vpmaxsbEvex512 o => o.wf mode
  | .vpmaxswEvex128 o => o.wf mode
  | .vpmaxswEvex256 o => o.wf mode
  | .vpmaxswEvex512 o => o.wf mode
  | .vpmaxsdEvex128 o => o.wf mode
  | .vpmaxsdEvex256 o => o.wf mode
  | .vpmaxsdEvex512 o => o.wf mode
  | .vpmaxsqEvex128 o => o.wf mode
  | .vpmaxsqEvex256 o => o.wf mode
  | .vpmaxsqEvex512 o => o.wf mode

/-- A well-formed instruction of a mode: every operand has a shape the mode encodes, and it is at most 15 bytes long. -/
def Instr.wf (mode : Mode) (i : Instr) : Bool :=
  i.shaped mode && i.length ≤ maxLength

end Sys2Proof
end

