-- ==== Sys2Proof/Decode.lean ====
section
/-! DEFINITION. The decoder of 30_encoding rule R147, total on any bytes, and after it the encoder. Both are written from
the byte layouts of rules R111 to R119, R124 and R133 to R145. -/

namespace Sys2Proof

/-- Why bytes are not an instruction. All but the last two are refusals (no meaning); the last two are `#UD` (rule R147, step
4), raised by the step. -/
inductive DecodeError where
  /-- the bytes end inside the instruction (what follows cannot be fetched; log 4) -/
  | truncated
  /-- not an instruction of the family (R147 step 4, R155) -/
  | notOfFamily
  /-- a prefix stands twice (R111, D19) -/
  | repeatedPrefix
  /-- two segment overrides (R111, D19) -/
  | twoSegmentOverrides
  /-- `F2` or `F3` before a legacy layout (R152, D19) -/
  | repBeforeLegacy
  /-- a REX byte that is not directly before the opcode or the VEX or EVEX prefix (R113, D19) -/
  | misplacedRex
  /-- an `ES`, `CS`, `SS` or `DS` override in `Long64` (R137, D19) -/
  | ignoredSegmentOverride
  /-- `67` in `Prot32`: 16-bit addressing (R138, D2) -/
  | address16
  /-- in `Prot32`, a VEX or EVEX bit that would name a register above 7 (R121, R127, D17) -/
  | prot32Extension
  /-- longer than 15 bytes (20_memory R92, D19) -/
  | tooLong
  /-- neither `Long64` nor `Prot32` (60_exceptions R240, D1) -/
  | modeNotAdmitted
  /-- `#UD`: reserved EVEX prefix bits, whatever the opcode (R148) -/
  | evexReservedBits
  /-- `#UD`: `L'L = 11b` (R151) -/
  | evexReservedLength
  deriving DecidableEq, Repr

/-- The two decode errors the processor reports as `#UD` (R148, R151). -/
def DecodeError.isUndefinedOpcode : DecodeError → Bool
  | .evexReservedBits => true
  | .evexReservedLength => true
  | _ => false

/-! ## Register numbers -/

/-- A general register or VEX register number: an extension bit above three bits (R113, R120). -/
def reg4 (ext : Bool) (low : BitVec 3) : Fin 16 :=
  Fin.ofNat 16 (8 * ext.toNat + low.toNat)

/-- An EVEX register number: two extension bits above three bits (R126). -/
def reg5 (ext4 ext3 : Bool) (low : BitVec 3) : Fin 32 :=
  Fin.ofNat 32 (16 * ext4.toNat + 8 * ext3.toNat + low.toNat)

/-! ## Decoding -/

/-- No prefix. -/
def noPrefixes : Prefixes :=
  { lock := false, repne := false, rep := false, opsize := false, addrsize := false, seg := none, rex := false }

/-- The segment an override byte names (R111). -/
def segmentOverride (b : Byte) : Option SegName :=
  if b = 0x26 then some .es
  else if b = 0x2E then some .cs
  else if b = 0x36 then some .ss
  else if b = 0x3E then some .ds
  else if b = 0x64 then some .fs
  else if b = 0x65 then some .gs
  else none

/-- One flag of a prefix: taken once, refused twice (R111, D19). -/
def once (seen : Bool) (p : Prefixes) : Except DecodeError Prefixes :=
  if seen then .error .repeatedPrefix else .ok p

/-- What a byte adds to the legacy prefixes; `none` if it is not one (R111). -/
def addPrefix (p : Prefixes) (b : Byte) : Option (Except DecodeError Prefixes) :=
  if b = 0xF0 then some (once p.lock { p with lock := true })
  else if b = 0xF2 then some (once p.repne { p with repne := true })
  else if b = 0xF3 then some (once p.rep { p with rep := true })
  else if b = 0x66 then some (once p.opsize { p with opsize := true })
  else if b = 0x67 then some (once p.addrsize { p with addrsize := true })
  else
    match segmentOverride b with
    | some g => some (if p.seg.isSome then .error .twoSegmentOverrides else .ok { p with seg := some g })
    | none => none

/-- R147, step 1: the legacy prefixes, in any order. -/
def scanPrefixes (p : Prefixes) : List Byte → Except DecodeError (Prefixes × List Byte)
  | [] => .error .truncated
  | b :: bs =>
    match addPrefix p b with
    | none => .ok (p, b :: bs)
    | some (.error e) => .error e
    | some (.ok p') => scanPrefixes p' bs

/-- Is a segment override one that has an effect in the mode? In `Long64` only `FS` and `GS` (R137). -/
def overrideAdmitted (mode : Mode) : Option SegName → Bool
  | none => true
  | some .fs => true
  | some .gs => true
  | some _ => mode != .long64

/-- The refusals that depend on prefixes and mode alone (R137, R138). -/
def prefixPolicy (mode : Mode) (p : Prefixes) : Option DecodeError :=
  if !overrideAdmitted mode p.seg then some .ignoredSegmentOverride
  else if mode = .prot32 ∧ p.addrsize = true then some .address16
  else none

/-- The first fixed bytes a REX may stand before: the escape, and the VEX and EVEX prefixes, where it is `#UD` (R113, R122,
R128). -/
def opensLayout (b : Byte) : Bool :=
  b == 0x0F || b == 0xC4 || b == 0xC5 || b == 0x62

/-- Is a byte a REX prefix (R113)? -/
def isRex (b : Byte) : Bool :=
  b.extractLsb' 4 4 == 4#4

/-- R147, step 2: the REX byte, in `Long64` only. -/
def splitRex (mode : Mode) : List Byte → Except DecodeError (Option Byte × List Byte)
  | [] => .error .truncated
  | b :: rest =>
    if mode = .long64 ∧ isRex b = true then
      match rest with
      | [] => .error .truncated
      | c :: _ =>
        if opensLayout c then .ok (some b, rest)
        else if isRex c || (addPrefix noPrefixes c).isSome then .error .misplacedRex
        else .error .notOfFamily
    else .ok (none, b :: rest)

/-- One bit of REX, 0 without a REX (R134). -/
def rexBit (rex : Option Byte) (n : Nat) : Bool :=
  match rex with
  | none => false
  | some b => b.getLsbD n

/-- Four bytes, little-endian (R139). -/
def take32 : List Byte → Except DecodeError (BitVec 32 × List Byte)
  | b0 :: b1 :: b2 :: b3 :: rest => .ok (b3 ++ b2 ++ b1 ++ b0, rest)
  | _ => .error .truncated

/-- The displacement that `mod` asks for (R134, R147 step 5). -/
def takeDisp (mod : BitVec 2) (bytes : List Byte) : Except DecodeError (Disp × List Byte) :=
  if mod = 0 then .ok (.none, bytes)
  else if mod = 1 then
    match bytes with
    | b :: rest => .ok (.disp8 b, rest)
    | [] => .error .truncated
  else
    match take32 bytes with
    | .ok (d, rest) => .ok (.disp32 d, rest)
    | .error e => .error e

/-- The index register of a SIB byte; number 4 is "no index" (R135). -/
def sibIndex (xx : Bool) (idx : BitVec 3) : Option (Fin 16) :=
  if reg4 xx idx = 4 then none else some (reg4 xx idx)

/-- The memory operand of `mod ≠ 11b` (R134, R135); `bx` and `xx` are the extension bits of base and index. -/
def takeMem (mode : Mode) (bx xx : Bool) (mod : BitVec 2) (rm : BitVec 3) (bytes : List Byte) :
    Except DecodeError (MemOperand × List Byte) :=
  if rm = 4 then
    match bytes with
    | [] => .error .truncated
    | sib :: rest =>
      let scale : Fin 4 := (sib.extractLsb' 6 2).toFin
      let index := sibIndex xx (sib.extractLsb' 3 3)
      let bs := sib.extractLsb' 0 3
      if mod = 0 ∧ bs = 5 then
        match take32 rest with
        | .ok (d, rest') => .ok (.sibNoBase scale index d, rest')
        | .error e => .error e
      else
        match takeDisp mod rest with
        | .ok (d, rest') => .ok (.sib scale index (reg4 bx bs) d, rest')
        | .error e => .error e
  else if mod = 0 ∧ rm = 5 then
    match take32 bytes with
    | .ok (d, rest) => .ok (if mode = .long64 then .pcRelative d else .absolute d, rest)
    | .error e => .error e
  else
    match takeDisp mod bytes with
    | .ok (d, rest) => .ok (.base (reg4 bx rm) d, rest)
    | .error e => .error e

/-- ModRM and what follows it (R133): the bits of `reg`, and the second source, whose register number `regOf` forms from
`rm`. -/
def takeModRM {n : Nat} (mode : Mode) (bx xx : Bool) (regOf : BitVec 3 → Fin n) :
    List Byte → Except DecodeError (BitVec 3 × Source n × List Byte)
  | [] => .error .truncated
  | m :: rest =>
    let mod := m.extractLsb' 6 2
    let rm := m.extractLsb' 0 3
    if mod = 3 then .ok (m.extractLsb' 3 3, .reg (regOf rm), rest)
    else
      match takeMem mode bx xx mod rm rest with
      | .ok (mem, rest') => .ok (m.extractLsb' 3 3, .mem mem, rest')
      | .error e => .error e

/-- The operands of row 1: `REX.R` is ignored, and `REX.B` with a register operand (R113, D30). -/
def takeMmx (mode : Mode) (p : Prefixes) (rex : Option Byte) (bytes : List Byte) :
    Except DecodeError (Instr × List Byte) :=
  match takeModRM mode (rexBit rex 0) (rexBit rex 1) BitVec.toFin bytes with
  | .ok (reg, src, rest) => .ok (.pmaxswMmx { pfx := p, d := reg.toFin, src := src }, rest)
  | .error e => .error e

/-- The operands of rows 2 to 4 (R113, R141). -/
def takeSse (mode : Mode) (p : Prefixes) (rex : Option Byte) (ctor : SseOperands → Instr) (bytes : List Byte) :
    Except DecodeError (Instr × List Byte) :=
  match takeModRM mode (rexBit rex 0) (rexBit rex 1) (reg4 (rexBit rex 0)) bytes with
  | .ok (reg, src, rest) => .ok (ctor { pfx := p, d := reg4 (rexBit rex 2) reg, src := src }, rest)
  | .error e => .error e

/-- The row of opcode map `0F 38` (`three`) or `0F`, by opcode byte and `66` (R112, R116). -/
def legacyRow (three opsize : Bool) (op : Byte) : Option (Option (SseOperands → Instr)) :=
  if three then
    if op = 0x3C ∧ opsize = true then some (some .pmaxsbXmm)
    else if op = 0x3D ∧ opsize = true then some (some .pmaxsdXmm)
    else none
  else if op = 0xEE then some (if opsize then some .pmaxswXmm else none)
  else none

/-- A row of the legacy layout; the inner `none` is row 1. -/
def takeLegacyRow (mode : Mode) (p : Prefixes) (rex : Option Byte) (three : Bool) (op : Byte) (rest : List Byte) :
    Except DecodeError (Instr × List Byte) :=
  match legacyRow three p.opsize op with
  | none => .error .notOfFamily
  | some row =>
    if p.repne || p.rep then .error .repBeforeLegacy
    else
      match row with
      | none => takeMmx mode p rex rest
      | some ctor => takeSse mode p rex ctor rest

/-- The legacy layout, after the `0F` byte (R114). -/
def takeLegacy (mode : Mode) (p : Prefixes) (rex : Option Byte) : List Byte → Except DecodeError (Instr × List Byte)
  | [] => .error .truncated
  | b :: rest =>
    if b = 0x38 then
      match rest with
      | [] => .error .truncated
      | op :: rest' => takeLegacyRow mode p rex true op rest'
    else takeLegacyRow mode p rex false b rest

/-- The row of a VEX prefix by map, `L` and opcode byte, `pp` being `01b` (R117, R145). -/
def vexRow (map : BitVec 5) (l : Bool) (op : Byte) : Option (VexOperands → Instr) :=
  if map = 2 ∧ op = 0x3C then some (if l then .vpmaxsbVex256 else .vpmaxsbVex128)
  else if map = 1 ∧ op = 0xEE then some (if l then .vpmaxswVex256 else .vpmaxswVex128)
  else if map = 2 ∧ op = 0x3D then some (if l then .vpmaxsdVex256 else .vpmaxsdVex128)
  else none

/-- The operands of a VEX form; `vn` is the stored, inverted `vvvv` (R120). -/
def takeVex (mode : Mode) (p : Prefixes) (r x b : Bool) (vn : BitVec 4) (ctor : VexOperands → Instr) (bytes : List Byte) :
    Except DecodeError (Instr × List Byte) :=
  match takeModRM mode b x (reg4 b) bytes with
  | .ok (reg, src, rest) => .ok (ctor { pfx := p, d := reg4 r reg, s1 := (~~~vn).toFin, src := src }, rest)
  | .error e => .error e

/-- `C4 b1 b2 opcode` (R118, R120, R121). -/
def takeVex3 (mode : Mode) (p : Prefixes) : List Byte → Except DecodeError (Instr × List Byte)
  | b1 :: b2 :: op :: rest =>
    if mode = .prot32 ∧ b1.extractLsb' 6 2 ≠ 3 then .error .notOfFamily
    else
      match (if b2.extractLsb' 0 2 = 1 then vexRow (b1.extractLsb' 0 5) (b2.getLsbD 2) op else none) with
      | none => .error .notOfFamily
      | some ctor =>
        if mode = .prot32 ∧ (b1.getLsbD 5 = false ∨ b2.getLsbD 6 = false) then .error .prot32Extension
        else takeVex mode p (!b1.getLsbD 7) (!b1.getLsbD 6) (!b1.getLsbD 5) (b2.extractLsb' 3 4) ctor rest
  | _ => .error .truncated

/-- `C5 b1 opcode` (R119): map `0F`, no `X`, no `B`. -/
def takeVex2 (mode : Mode) (p : Prefixes) : List Byte → Except DecodeError (Instr × List Byte)
  | b1 :: op :: rest =>
    if mode = .prot32 ∧ b1.extractLsb' 6 2 ≠ 3 then .error .notOfFamily
    else if b1.extractLsb' 0 2 = 1 ∧ op = 0xEE then
      takeVex mode p (!b1.getLsbD 7) false false (b1.extractLsb' 3 4)
        (if b1.getLsbD 2 then .vpmaxswVex256Short else .vpmaxswVex128Short) rest
    else .error .notOfFamily
  | _ => .error .truncated

/-- The row of an EVEX prefix by map, `W`, vector length `L'L` and opcode byte, `pp` being `01b` (R123, R132, R145). -/
def evexRow (map : BitVec 2) (w : Bool) (ll : BitVec 2) (op : Byte) : Option (EvexOperands → Instr) :=
  if map = 2 ∧ op = 0x3C then
    (if ll = 0 then some .vpmaxsbEvex128 else if ll = 1 then some .vpmaxsbEvex256
      else if ll = 2 then some .vpmaxsbEvex512 else none)
  else if map = 1 ∧ op = 0xEE then
    (if ll = 0 then some .vpmaxswEvex128 else if ll = 1 then some .vpmaxswEvex256
      else if ll = 2 then some .vpmaxswEvex512 else none)
  else if map = 2 ∧ op = 0x3D ∧ w = false then
    (if ll = 0 then some .vpmaxsdEvex128 else if ll = 1 then some .vpmaxsdEvex256
      else if ll = 2 then some .vpmaxsdEvex512 else none)
  else if map = 2 ∧ op = 0x3D ∧ w = true then
    (if ll = 0 then some .vpmaxsqEvex128 else if ll = 1 then some .vpmaxsqEvex256
      else if ll = 2 then some .vpmaxsqEvex512 else none)
  else none

/-- The reserved prefix bits of R148: `P0[3:2]`, `P1[2]`, `mm = 00b`. -/
def evexReserved (p0 p1 : Byte) : Bool :=
  p0.extractLsb' 2 2 != 0 || !p1.getLsbD 2 || p0.extractLsb' 0 2 == 0

/-- The operands of an EVEX form (R126, R130, R131). -/
def takeEvexOperands (mode : Mode) (p : Prefixes) (p0 p1 p2 : Byte) (ctor : EvexOperands → Instr) (bytes : List Byte) :
    Except DecodeError (Instr × List Byte) :=
  match takeModRM mode (!p0.getLsbD 5) (!p0.getLsbD 6) (reg5 (!p0.getLsbD 6) (!p0.getLsbD 5)) bytes with
  | .ok (reg, src, rest) =>
    .ok (ctor
      { pfx := p
        d := reg5 (!p0.getLsbD 4) (!p0.getLsbD 7) reg
        s1 := reg5 (!p2.getLsbD 3) (!p1.getLsbD 6) (~~~(p1.extractLsb' 3 3))
        src := src
        aaa := (p2.extractLsb' 0 3).toFin
        z := p2.getLsbD 7
        b := p2.getLsbD 4 }, rest)
  | .error e => .error e

/-- A reserved EVEX pattern: `#UD`, unless the instruction is over-long by R147 step 5, which is refused first (60_exceptions
R229, level 1). `bytes` begins at ModRM. -/
def reservedEvex (mode : Mode) (p : Prefixes) (e : DecodeError) (bytes : List Byte) :
    Except DecodeError (Instr × List Byte) :=
  match takeModRM (n := 32) mode false false (reg5 false false) bytes with
  | .error t => .error t
  | .ok (_, src, _) => .error (if formLength 5 p src ≤ maxLength then e else .tooLong)

/-- `62 P0 P1 P2 opcode` (R124, R127, R147 step 4). -/
def takeEvex (mode : Mode) (p : Prefixes) : List Byte → Except DecodeError (Instr × List Byte)
  | p0 :: p1 :: p2 :: op :: rest =>
    if mode = .prot32 ∧ p0.extractLsb' 6 2 ≠ 3 then .error .notOfFamily
    else if mode = .prot32 ∧
        (p0.getLsbD 5 = false ∨ p0.getLsbD 4 = false ∨ p1.getLsbD 6 = false ∨ p2.getLsbD 3 = false) then
      .error .prot32Extension
    else if evexReserved p0 p1 then reservedEvex mode p .evexReservedBits rest
    else
      let row := fun ll =>
        if p1.extractLsb' 0 2 = 1 then evexRow (p0.extractLsb' 0 2) (p1.getLsbD 7) ll op else none
      match row (p2.extractLsb' 5 2) with
      | some ctor => takeEvexOperands mode p p0 p1 p2 ctor rest
      | none =>
        if p2.extractLsb' 5 2 = 3 ∧ (row 0).isSome = true then reservedEvex mode p .evexReservedLength rest
        else .error .notOfFamily
  | _ => .error .truncated

/-- R147, step 3: the layout, by the first byte that is no prefix. -/
def takeLayout (mode : Mode) (p : Prefixes) (rex : Option Byte) : List Byte → Except DecodeError (Instr × List Byte)
  | [] => .error .truncated
  | b :: rest =>
    if b = 0x0F then takeLegacy mode p rex rest
    else if b = 0xC4 then takeVex3 mode p rest
    else if b = 0xC5 then takeVex2 mode p rest
    else if b = 0x62 then takeEvex mode p rest
    else .error .notOfFamily

/-- Prefixes, REX and layout (R147). -/
def decodeAny (mode : Mode) (bytes : List Byte) : Except DecodeError (Instr × List Byte) :=
  match scanPrefixes noPrefixes bytes with
  | .error e => .error e
  | .ok (p, rest) =>
    match prefixPolicy mode p with
    | some e => .error e
    | none =>
      match splitRex mode rest with
      | .error e => .error e
      | .ok (rex, rest') => takeLayout mode { p with rex := rex.isSome } rex rest'

/-- The decoder: the instruction the bytes begin with in a mode, and the bytes after it. An instruction of more than 15 bytes
is refused (20_memory R92, D19), also where 15 bytes do not end it; so is every mode but the two of 60_exceptions R240. -/
def decode (mode : Mode) (bytes : List Byte) : Except DecodeError (Instr × List Byte) :=
  if mode ≠ .long64 ∧ mode ≠ .prot32 then .error .modeNotAdmitted
  else
    match decodeAny mode bytes with
    | .ok (i, rest) => if i.length ≤ maxLength then .ok (i, rest) else .error .tooLong
    | .error e => if e = .truncated ∧ maxLength ≤ bytes.length then .error .tooLong else .error e

/-! ## Encoding -/

/-- The low three bits of a register number. -/
def lowBits {n : Nat} (r : Fin n) : BitVec 3 :=
  BitVec.ofNat 3 r.val

/-- Bit 3 of a register number. -/
def ext3 {n : Nat} (r : Fin n) : Bool :=
  r.val.testBit 3

/-- Bit 4 of a register number. -/
def ext4 {n : Nat} (r : Fin n) : Bool :=
  r.val.testBit 4

/-- The override byte of a segment (R111). -/
def segmentByte : SegName → Byte
  | .es => 0x26
  | .cs => 0x2E
  | .ss => 0x36
  | .ds => 0x3E
  | .fs => 0x64
  | .gs => 0x65

/-- A prefix byte, if it stands. -/
def flagByte (on : Bool) (b : Byte) : List Byte :=
  if on then [b] else []

/-- The prefixes in one fixed order, REX last with the given `W R X B` (R111, R113). -/
def encodePrefixes (p : Prefixes) (wrxb : BitVec 4) : List Byte :=
  flagByte p.lock 0xF0 ++ flagByte p.repne 0xF2 ++ flagByte p.rep 0xF3 ++ flagByte p.opsize 0x66
    ++ flagByte p.addrsize 0x67 ++ (p.seg.map segmentByte).toList ++ flagByte p.rex (4#4 ++ wrxb)

/-- Four bytes, little-endian (R139). -/
def encode32 (d : BitVec 32) : List Byte :=
  [d.extractLsb' 0 8, d.extractLsb' 8 8, d.extractLsb' 16 8, d.extractLsb' 24 8]

/-- The `mod` that a displacement takes (R134). -/
def Disp.mod : Disp → BitVec 2
  | .none => 0
  | .disp8 _ => 1
  | .disp32 _ => 2

/-- The bytes of a displacement. -/
def Disp.encode : Disp → List Byte
  | .none => []
  | .disp8 b => [b]
  | .disp32 d => encode32 d

/-- The SIB byte (R135). -/
def encodeSib (scale : Fin 4) (index : Option (Fin 16)) (bs : BitVec 3) : Byte :=
  BitVec.ofNat 2 scale.val ++ (match index with
    | none => 4#3
    | some i => lowBits i) ++ bs

/-- `mod`, `rm` and the bytes after ModRM of a memory operand (R134). -/
def MemOperand.encode : MemOperand → BitVec 2 × BitVec 3 × List Byte
  | .base r d => (d.mod, lowBits r, d.encode)
  | .sib sc i r d => (d.mod, 4, encodeSib sc i (lowBits r) :: d.encode)
  | .sibNoBase sc i d => (0, 4, encodeSib sc i 5 :: encode32 d)
  | .pcRelative d => (0, 5, encode32 d)
  | .absolute d => (0, 5, encode32 d)

/-- ModRM and the bytes after it, `reg` being the low bits of the destination (R133). -/
def Source.encode {n : Nat} (reg : BitVec 3) : Source n → List Byte
  | .reg r => [3#2 ++ reg ++ lowBits r]
  | .mem m => (m.encode.1 ++ reg ++ m.encode.2.1) :: m.encode.2.2

/-- The extension bit of the base register, or bit 3 of the register operand (R113, R120, R126). -/
def Source.bExt {n : Nat} : Source n → Bool
  | .reg r => ext3 r
  | .mem (.base r _) => ext3 r
  | .mem (.sib _ _ r _) => ext3 r
  | .mem _ => false

/-- The extension bit of the index register, or bit 4 of an EVEX register operand (R113, R120, R126). -/
def Source.xExt {n : Nat} : Source n → Bool
  | .reg r => ext4 r
  | .mem (.sib _ (some i) _ _) => ext3 i
  | .mem (.sibNoBase _ (some i) _) => ext3 i
  | .mem _ => false

/-- One bit. -/
def bit1 (b : Bool) : BitVec 1 :=
  BitVec.ofBool b

/-- A legacy form: prefixes, REX with `W = 0`, opcode, ModRM (R113, R116). -/
def encodeLegacy {n : Nat} (p : Prefixes) (r : Bool) (opcode : List Byte) (reg : BitVec 3) (src : Source n) :
    List Byte :=
  encodePrefixes p (0#1 ++ bit1 r ++ bit1 src.xExt ++ bit1 src.bExt) ++ opcode ++ src.encode reg

/-- A VEX3 form, with `W = 0` (R118, R120, R156). -/
def encodeVex3 (map : BitVec 5) (l : Bool) (op : Byte) (o : VexOperands) : List Byte :=
  encodePrefixes o.pfx 0
    ++ [0xC4, bit1 (!ext3 o.d) ++ bit1 (!o.src.xExt) ++ bit1 (!o.src.bExt) ++ map,
        0#1 ++ ~~~(BitVec.ofNat 4 o.s1.val) ++ bit1 l ++ 1#2, op]
    ++ o.src.encode (lowBits o.d)

/-- A VEX2 form (R119). -/
def encodeVex2 (l : Bool) (op : Byte) (o : VexOperands) : List Byte :=
  encodePrefixes o.pfx 0
    ++ [0xC5, bit1 (!ext3 o.d) ++ ~~~(BitVec.ofNat 4 o.s1.val) ++ bit1 l ++ 1#2, op]
    ++ o.src.encode (lowBits o.d)

/-- An EVEX form (R124, R126). -/
def encodeEvex (map : BitVec 2) (w : Bool) (ll : BitVec 2) (op : Byte) (o : EvexOperands) : List Byte :=
  encodePrefixes o.pfx 0
    ++ [0x62,
        bit1 (!ext3 o.d) ++ bit1 (!o.src.xExt) ++ bit1 (!o.src.bExt) ++ bit1 (!ext4 o.d) ++ 0#2 ++ map,
        bit1 w ++ bit1 (!ext3 o.s1) ++ ~~~(lowBits o.s1) ++ 1#1 ++ 1#2,
        bit1 o.z ++ ll ++ bit1 o.b ++ bit1 (!ext4 o.s1) ++ BitVec.ofNat 3 o.aaa.val,
        op]
    ++ o.src.encode (lowBits o.d)

/-- The encoder: bytes of an instruction, one choice among the encodings that mean the same (`W = 0` where it is ignored). -/
def encode : Instr → List Byte
  | .pmaxswMmx o => encodeLegacy o.pfx false [0x0F, 0xEE] (lowBits o.d) o.src
  | .pmaxsbXmm o => encodeLegacy o.pfx (ext3 o.d) [0x0F, 0x38, 0x3C] (lowBits o.d) o.src
  | .pmaxswXmm o => encodeLegacy o.pfx (ext3 o.d) [0x0F, 0xEE] (lowBits o.d) o.src
  | .pmaxsdXmm o => encodeLegacy o.pfx (ext3 o.d) [0x0F, 0x38, 0x3D] (lowBits o.d) o.src
  | .vpmaxsbVex128 o => encodeVex3 2 false 0x3C o
  | .vpmaxswVex128 o => encodeVex3 1 false 0xEE o
  | .vpmaxswVex128Short o => encodeVex2 false 0xEE o
  | .vpmaxsdVex128 o => encodeVex3 2 false 0x3D o
  | .vpmaxsbVex256 o => encodeVex3 2 true 0x3C o
  | .vpmaxswVex256 o => encodeVex3 1 true 0xEE o
  | .vpmaxswVex256Short o => encodeVex2 true 0xEE o
  | .vpmaxsdVex256 o => encodeVex3 2 true 0x3D o
  | .vpmaxsbEvex128 o => encodeEvex 2 false 0 0x3C o
  | .vpmaxsbEvex256 o => encodeEvex 2 false 1 0x3C o
  | .vpmaxsbEvex512 o => encodeEvex 2 false 2 0x3C o
  | .vpmaxswEvex128 o => encodeEvex 1 false 0 0xEE o
  | .vpmaxswEvex256 o => encodeEvex 1 false 1 0xEE o
  | .vpmaxswEvex512 o => encodeEvex 1 false 2 0xEE o
  | .vpmaxsdEvex128 o => encodeEvex 2 false 0 0x3D o
  | .vpmaxsdEvex256 o => encodeEvex 2 false 1 0x3D o
  | .vpmaxsdEvex512 o => encodeEvex 2 false 2 0x3D o
  | .vpmaxsqEvex128 o => encodeEvex 2 true 0 0x3D o
  | .vpmaxsqEvex256 o => encodeEvex 2 true 1 0x3D o
  | .vpmaxsqEvex512 o => encodeEvex 2 true 2 0x3D o

/-! ## The opcode table's words -/

/-- Byte `k` of a table word: the table's first byte is bits 7:0, its second bits 15:8 (R146). -/
def tableByte (w k : Nat) : Byte :=
  BitVec.ofNat 8 (w >>> (8 * k))

/-- The bytes of an opcode-table word, first byte first. The table leaves the mandatory prefix outside its window (R146), so a
window that begins `0F 38`, which is a row of the family only behind `66` (R116), gets its `66` here (log 6). -/
def tableBytes (nbits w : Nat) : List Byte :=
  let window := (List.range (nbits / 8)).map (tableByte w)
  match window with
  | b0 :: b1 :: _ => if b0 = 0x0F ∧ b1 = 0x38 then 0x66 :: window else window
  | _ => window

/-- The table word as the machine stores it: 15 bytes, zeros above the word. -/
def tableImage (nbits w : Nat) : List Byte :=
  (tableBytes nbits w ++ List.replicate maxLength 0).take maxLength

/-- The instruction the decoder reads, in `Long64`, from a word of the opcode table. -/
def decodeTableWord (nbits w : Nat) : Option Instr :=
  match decode .long64 (tableImage nbits w) with
  | .ok (i, _) => some i
  | .error _ => none

end Sys2Proof
end

