-- ==== Sys2Proof/Machine/State.lean ====
section
/-! DEFINITION. The state of the logical processor (10_state), as plain data, the reasons a step can stop, and the state
after reset (10_state rule R70). -/

namespace Sys2Proof.Machine

/-- A fault: the outcome `Fault(vector, code, cr2)` of 60_exceptions rule R231. The instruction changed nothing, `pc` is at its
first byte, and the run ends there (D7). Every one is SAFE: nothing after it can be proved. -/
inductive Fault where
  /-- `#UD`, vector 6: the checks of R230 for every form, and the decoder for the reserved EVEX patterns of 30_encoding R148 and
  R151. Safe. -/
  | invalidOpcode
  /-- `#NM`, vector 7: every form with `CR0.TS = 1` (R219). Safe. -/
  | deviceNotAvailable
  /-- `#SS(0)`, vector 12: a memory operand through `SS` at a bad address (R221). Safe. -/
  | stackSegment
  /-- `#GP(0)`, vector 13: a memory operand at a bad address, or unaligned in rows 2 to 4 (R222). Safe. -/
  | generalProtection
  /-- `#PF(code)`, vector 14: Translate reports a page fault at the linear address `cr2` (R223). Safe. -/
  | pageFault (code : BitVec 32) (cr2 : Qword)
  /-- `#MF`, vector 16: row 1 with an unmasked x87 exception pending (R220). Safe. -/
  | mathFault
  /-- `#AC(0)`, vector 17: row 1 with alignment checking on and an address that is no multiple of 8 (R224). Safe. -/
  | alignmentCheck
  deriving DecidableEq, Repr

/-- A refusal: the spec says that the model gives the case no meaning. Every one is SAFE: no claim can be proved about what
the processor does there. -/
inductive Refusal where
  /-- raised by an arm of exec that has no meaning yet (none is left). Safe. -/
  | notModelled (mnemonic : String)
  /-- raised by the step: the bytes at `pc` are refused by the decoder. Safe. -/
  | undecodable (e : DecodeError)
  /-- raised by every form and the step: neither `Long64` nor `Prot32` (60_exceptions R240, D1). Safe. -/
  | modeNotAdmitted
  /-- raised by every form and the step: `EFLAGS.TF = 1` (60_exceptions R247, D34). Safe. -/
  | singleStep
  /-- raised by every form and the step: a breakpoint is enabled in DR7 (60_exceptions R247, D34). Safe. -/
  | breakpointEnabled
  /-- raised by every form and the step: `Features` breaks an implication of 60_exceptions R213 (D5). Safe. -/
  | featuresNotClosed
  /-- raised by row 1: `CR4.OSFXSR = 0` (60_exceptions R225, D33). Safe. -/
  | mmxWithoutOsfxsr
  /-- raised by row 1: an x87 exception is pending and `CR0.NE = 0` (60_exceptions R220, D22). Safe. -/
  | externalMathError
  /-- raised by rows 5 to 22: an unaligned memory operand with alignment checking on (20_memory R91, D10). Safe. -/
  | vectorAlignmentCheck
  /-- raised by rows 2 to 4: the used segment's base is no multiple of 16 (20_memory R88, D8). Safe. -/
  | unalignedSegmentBase
  /-- raised by every form: the memory operand lies on a device (20_memory R95, D12). Safe. -/
  | deviceOperand
  /-- raised by every form: the memory operand lies on memory that is not write-back (20_memory R95, D12). Safe. -/
  | notWriteBackOperand
  deriving DecidableEq, Repr

/-- Consecutive offsets, both ends counted. -/
structure OffsetRange where
  first : Nat
  last : Nat
  deriving DecidableEq, Repr

/-- Which offsets a segment has in `Prot32`: the segmentation part of the parameter `Translate` (20_memory R98, D32; the first
two forms are the family's, log 18). -/
inductive SegBounds where
  /-- the offsets up to the limit -/
  | expandUp
  /-- the offsets above the limit, up to `FFFFFFFFH` (`big`) or `FFFFH` -/
  | expandDown (big : Bool)
  /-- any other set that `Translate` may have: the offsets in one of these ranges, whatever the limit -/
  | ranges (rs : List OffsetRange)
  deriving DecidableEq, Repr

/-- A segment register (10_state R50, R70): selector, base, and for `Prot32` the limit, the right to read and which offsets the
segment has. -/
structure SegReg where
  selector : BitVec 16
  base : Qword
  limit : BitVec 32
  readable : Bool
  bounds : SegBounds
  deriving DecidableEq, Repr

/-- The six segment registers (10_state R50). -/
structure SegFile where
  es : SegReg
  cs : SegReg
  ss : SegReg
  ds : SegReg
  fs : SegReg
  gs : SegReg
  deriving DecidableEq, Repr

/-- What a data read of a page gives at one privilege: the page's frame, or a page fault with the error-code bits P, RSVD and
PK of 20_memory R98. -/
inductive PageAccess where
  | mapped (frame : Nat)
  | faults (protection reserved key : Bool)
  deriving DecidableEq, Repr

/-- One page of the parameter `Translate` (20_memory R98; log 2): what reading it gives a supervisor (`CPL` 0 to 2) and a user
(`CPL` 3). A page that is not listed is its own frame. -/
structure PageEntry where
  page : Nat
  supervisor : PageAccess
  user : PageAccess
  deriving DecidableEq, Repr

/-- What a physical range is, where it is not ordinary write-back memory (20_memory R95). -/
inductive RegionKind where
  | device
  | notWriteBack
  deriving DecidableEq, Repr

/-- A physical range that is not ordinary memory (20_memory R95, 60_exceptions R244). -/
structure Region where
  base : Nat
  size : Nat
  kind : RegionKind
  deriving DecidableEq, Repr

/-- What kind of store a write of another processor is (20_memory R101: non-temporal and string stores are the exceptions from
the order among one processor's writes). -/
inductive StoreKind where
  | ordinary
  | nonTemporal
  | string
  deriving DecidableEq, Repr

/-- One write of another processor: bytes at consecutive physical addresses that become visible together. `after` names the
writes it causally follows, by their `id` (20_memory R101; log 22). -/
structure OtherWrite where
  id : Nat
  writer : Nat
  kind : StoreKind
  address : Nat
  bytes : List Byte
  after : List Nat
  deriving DecidableEq, Repr

/-- An x87 last-instruction or last-data pointer (60_exceptions R228; log 30). -/
structure X87Pointer where
  selector : BitVec 16
  offset : Qword
  deriving DecidableEq, Repr

/-- Memory: the bytes that differ from what an unlisted byte reads as, by physical address, addresses strictly rising. -/
abbrev Memory := List Host.Cell

/-- The state. Every field but `draws` is the spec's; INVENTORY.md lists each with its rule. -/
structure State where
  /-- RIP or EIP (R41) -/
  pc : Qword
  /-- general registers (R40) -/
  x : Vector Qword 16
  /-- vector registers (R55); bits at and above MAXVL do not exist and are 0 (log 25) -/
  v : Vector VReg 32
  /-- opmask registers (R63) -/
  k : Vector Qword 8
  /-- physical x87 registers, `MM[i]` in bits 63:0 (R61) -/
  r : Vector X87Reg 8
  /-- x87 status word: TOS in bits 13:11, ES in bit 7 (R62, R220) -/
  x87Status : BitVec 16
  /-- x87 tag word (R62) -/
  x87Tag : BitVec 16
  /-- x87 control word (R62) -/
  x87Control : BitVec 16
  /-- x87 last instruction pointer (60_exceptions R228) -/
  x87LastInstr : X87Pointer
  /-- x87 last data pointer (60_exceptions R228) -/
  x87LastData : X87Pointer
  /-- MXCSR (R44, R70) -/
  mxcsr : BitVec 32
  /-- CR0 (R45) -/
  cr0 : Qword
  /-- CR2, the page-fault address (R228) -/
  cr2 : Qword
  /-- CR4 (R46) -/
  cr4 : Qword
  /-- XCR0 (R47) -/
  xcr0 : Qword
  /-- XINUSE, the XSAVE in-use bits (R66 (c)) -/
  xinuse : Qword
  /-- EFLAGS (R43, R48) -/
  eflags : BitVec 32
  /-- segment registers (R50); CPL is bits 1:0 of the CS selector (R48) -/
  segs : SegFile
  /-- DR0 to DR3, breakpoint addresses (60_exceptions R247) -/
  dr : Vector Qword 4
  /-- DR7, breakpoint enables (60_exceptions R247) -/
  dr7 : Qword
  /-- the operating mode (60_exceptions R240) -/
  mode : Mode
  /-- CPUID feature flags (R49); fixed by the processor -/
  features : Features
  /-- the pages of `Translate` (20_memory R98) -/
  pages : List PageEntry
  /-- physical ranges that are not ordinary memory (20_memory R95) -/
  regions : List Region
  /-- the writes of other processors that this one may not have seen yet, each writer's in its order (20_memory R101,
  70 R263) -/
  pending : List OtherWrite
  /-- the writes of other processors that are visible to this one, newest first (20_memory R101) -/
  landed : List OtherWrite
  /-- memory (20_memory R80) -/
  mem : Memory
  /-- the model's own counter, which makes each free value fresh (log 13) -/
  draws : Nat
  deriving DecidableEq, Repr

/-- A data segment after reset (R70); its right to read and its bounds are the family's (log 9). -/
def resetSegment : SegReg :=
  { selector := 0, base := 0, limit := 0xFFFF, readable := true, bounds := .expandUp }

/-- The CS register after reset (R70); its right to read and its bounds are the family's (log 9). -/
def resetCodeSegment : SegReg :=
  { selector := 0xF000, base := 0xFFFF0000, limit := 0xFFFF, readable := true, bounds := .expandUp }

/-- The segment registers after reset (R70). -/
def resetSegments : SegFile :=
  { es := resetSegment, cs := resetCodeSegment, ss := resetSegment, ds := resetSegment, fs := resetSegment,
    gs := resetSegment }

/-- A processor with every feature of R2 (log 11). -/
def allFeatures : Features :=
  { sse := true, sse2 := true, sse41 := true, avx := true, avx2 := true, avx512f := true, avx512bw := true,
    avx512vl := true }

/-- The local APIC's default range (60_exceptions R244; its size is the family's, log 3). -/
def localApic : Region :=
  { base := 0xFEE00000, size := 0x1000, kind := .device }

/-- The machine after power-up or RESET# (10_state R70, 70 R260). DESIGN CHOICE (log 7): `EAX` is 0, the value R70 gives where
the built-in self-test passed or was not run; bits 63:32 of the general registers, of `pc` and of `CR4`,
`EDX` and `R8` to `R15` are 0. The upper vector bits and opmasks: log 8. What R70 does not list: logs 2, 3, 9 to 13, 22, 30. -/
def State.reset : State :=
  { pc := 0xFFF0
    x := Vector.replicate 16 0
    v := Vector.replicate 32 0
    k := Vector.replicate 8 0
    r := Vector.replicate 8 0
    x87Status := 0
    x87Tag := 0x5555
    x87Control := 0x0040
    x87LastInstr := { selector := 0, offset := 0 }
    x87LastData := { selector := 0, offset := 0 }
    mxcsr := 0x1F80
    cr0 := 0x60000010
    cr2 := 0
    cr4 := 0
    xcr0 := 1
    xinuse := 0
    eflags := 2
    segs := resetSegments
    dr := Vector.replicate 4 0
    dr7 := 0x400
    mode := .realAddress
    features := allFeatures
    pages := []
    regions := [localApic]
    pending := []
    landed := []
    mem := []
    draws := 0 }

end Sys2Proof.Machine
end

