-- ==== Sys2Proof/Machine/Flags.lean ====
section
/-! DEFINITION. The control bits and feature flags that decide whether a form executes or faults (10_state rules R45 to
R49, 00_scope rules R6 to R8). No form reads or writes a status flag (R43). -/

namespace Sys2Proof.Machine

/-- `CR0.EM`, bit 2 (R45). -/
def cr0Em (s : State) : Bool := s.cr0.getLsbD 2

/-- `CR0.TS`, bit 3 (R45). -/
def cr0Ts (s : State) : Bool := s.cr0.getLsbD 3

/-- `CR0.NE`, bit 5 (R45). -/
def cr0Ne (s : State) : Bool := s.cr0.getLsbD 5

/-- `CR0.AM`, bit 18 (R45). -/
def cr0Am (s : State) : Bool := s.cr0.getLsbD 18

/-- `CR4.OSFXSR`, bit 9 (R46). -/
def cr4Osfxsr (s : State) : Bool := s.cr4.getLsbD 9

/-- `CR4.OSXSAVE`, bit 18 (R46). -/
def cr4Osxsave (s : State) : Bool := s.cr4.getLsbD 18

/-- `CR4.LA57`, bit 12 (R46). -/
def cr4La57 (s : State) : Bool := s.cr4.getLsbD 12

/-- `XCR0[2:1] = 11b` (R47). -/
def xcr0Avx (s : State) : Bool := s.xcr0.extractLsb' 1 2 == 3#2

/-- `XCR0[7:5] = 111b` (R47). -/
def xcr0Avx512 (s : State) : Bool := s.xcr0.extractLsb' 5 3 == 7#3

/-- `EFLAGS.AC`, bit 18 (R48). -/
def eflagsAc (s : State) : Bool := s.eflags.getLsbD 18

/-- `EFLAGS.TF`, bit 8 (60_exceptions R247; the bit's place is the family's, log 17). -/
def eflagsTf (s : State) : Bool := s.eflags.getLsbD 8

/-- A breakpoint is enabled in DR7: one of its bits 7:0 (60_exceptions R247; their places are the family's, log 17). -/
def breakpointOn (s : State) : Bool := s.dr7.extractLsb' 0 8 != 0

/-- An unmasked x87 exception is pending: status word bit 7, `ES` (60_exceptions R220). -/
def x87Pending (s : State) : Bool := s.x87Status.getLsbD 7

/-- The x87 top-of-stack field, bits 13:11 of the status word (R62). -/
def x87Top (s : State) : BitVec 3 := s.x87Status.extractLsb' 11 3

/-- The current privilege level: bits 1:0 of the CS selector (R48). -/
def cpl (s : State) : Nat := (s.segs.cs.selector.extractLsb' 0 2).toNat

/-- `AlignCheckEnabled` (20_memory R91, R48). -/
def alignCheckEnabled (s : State) : Bool := cr0Am s && eflagsAc s && cpl s == 3

/-- `LinearBits` (20_memory R97, R46). -/
def linearBits (s : State) : Nat := if cr4La57 s then 57 else 48

/-- Is a flag in `Features` (R7)? -/
def hasFeature (fs : Features) : Feature → Bool
  | .sse => fs.sse
  | .sse2 => fs.sse2
  | .sse41 => fs.sse41
  | .avx => fs.avx
  | .avx2 => fs.avx2
  | .avx512f => fs.avx512f
  | .avx512bw => fs.avx512bw
  | .avx512vl => fs.avx512vl

/-- Are all the flags a row names in `Features` (R2, R7)? -/
def hasAll (fs : Features) (required : List Feature) : Bool :=
  required.all (hasFeature fs)

/-- `Features` is closed under the implications of 60_exceptions R213 (D5). -/
def featuresClosed (fs : Features) : Bool :=
  (!fs.avx512bw || fs.avx512f) && (!fs.avx512vl || fs.avx512f) && (!fs.avx512f || fs.avx2) && (!fs.avx2 || fs.avx)
    && (!fs.avx || fs.sse41) && (!fs.sse41 || fs.sse2) && (!fs.sse2 || fs.sse)

/-- `MAXVL` (R6, D3): it does not follow `XCR0` (D23). -/
def maxvl (fs : Features) : Nat :=
  if fs.avx512f || fs.avx512bw || fs.avx512vl then 512 else if fs.avx then 256 else 128

/-- `NVEC`: how many vector registers an encoding can name (R8); `evex` says whether the encoding is EVEX. -/
def nvec (mode : Mode) (evex : Bool) : Nat :=
  if mode = .long64 then (if evex then 32 else 16) else 8

/-- The features that CPUID reports in leaf 1 EDX and ECX and leaf 7 EBX (R49). -/
def featuresOfCpuid (edx1 ecx1 ebx7 : BitVec 32) : Features :=
  { sse := edx1.getLsbD 25
    sse2 := edx1.getLsbD 26
    sse41 := ecx1.getLsbD 19
    avx := ecx1.getLsbD 28
    avx2 := ebx7.getLsbD 5
    avx512f := ebx7.getLsbD 16
    avx512bw := ebx7.getLsbD 30
    avx512vl := ebx7.getLsbD 31 }

/-- `CPUID.01H:ECX[27]`, which mirrors `CR4.OSXSAVE` (R49). -/
def cpuidOsxsave (s : State) : Bool := cr4Osxsave s

end Sys2Proof.Machine
end

