-- ==== Sys2Proof/Machine/Ops.lean ====
section
/-! DEFINITION. The named operations over memory, registers and the run: reading and writing bytes, register accessors,
taking an exception, completing an instruction, booting, INIT, and the data of `Translate`. -/

namespace Sys2Proof.Machine

/-! ## Memory -/

/-- What a byte of memory that nothing has listed reads as (log 10). -/
def unlistedByte : Byte := 0

/-- The byte at a physical address (20_memory R80, R95: reading changes nothing). -/
def readByte : Memory → Nat → Byte
  | [], _ => unlistedByte
  | (a, b) :: rest, n => if a = n then b else readByte rest n

/-- Memory with one byte written, in canonical form. No form of the family writes memory (R83); what places a program does. -/
def writeByte : Memory → Nat → Byte → Memory
  | [], n, b => if b = unlistedByte then [] else [(n, b)]
  | (a, c) :: rest, n, b =>
    if n < a then (if b = unlistedByte then (a, c) :: rest else (n, b) :: (a, c) :: rest)
    else if n = a then (if b = unlistedByte then rest else (n, b) :: rest)
    else (a, c) :: writeByte rest n b

/-- The canonical form: addresses strictly rising, no byte listed that reads as an unlisted one does. -/
def Memory.wf : Memory → Bool
  | [] => true
  | (a, b) :: rest => b != unlistedByte && rest.all (fun c => a < c.1) && Memory.wf rest

/-- The number whose bytes, least significant first, are given (20_memory R84). -/
def littleEndian : List Byte → Nat
  | [] => 0
  | b :: rest => b.toNat + 256 * littleEndian rest

/-! ## Registers -/

/-- A general register (R40). -/
def readX (s : State) (i : Fin 16) : Qword := s.x.get i

/-- Bits `VL-1:0` of a vector register (R55). -/
def readV (VL : Nat) (s : State) (i : Fin 32) : BitVec VL := (s.v.get i).setWidth VL

/-- The XSAVE components a vector write may mark in use: SSE, AVX, opmask, ZMM_Hi256, Hi16_ZMM (10_state R47, R66 (c)). -/
def vectorComponents : Qword := 0xE6

/-- XINUSE after a vector write: some of those components may become set (R66 (c), log 12). -/
def xinuseAfterWrite (s : State) : Qword :=
  s.xinuse ||| (Config.xinuseChoice s.draws &&& vectorComponents)

/-- A vector register written whole (R15, `V[i] <- v`). -/
def writeV (s : State) (i : Fin 32) (w : VReg) : State :=
  { s with v := s.v.set i w, xinuse := xinuseAfterWrite s }

/-- Bits `MAXVL-1:128` of the old value above a new 128-bit result (R56). -/
def keepUpper (old : VReg) (low : BitVec 128) : VReg :=
  old.extractLsb' 128 384 ++ low

/-- A legacy-SSE write: bits 127:0 only (R56). -/
def writeXmmKeep (s : State) (i : Fin 32) (low : BitVec 128) : State :=
  writeV s i (keepUpper (s.v.get i) low)

/-- A VEX or EVEX write: the result, zeros above it (R57, R58). -/
def writeVZero {VL : Nat} (s : State) (i : Fin 32) (w : BitVec VL) : State :=
  writeV s i (w.setWidth 512)

/-- An MMX register: bits 63:0 of the physical x87 register (R61). -/
def readMm (s : State) (i : Fin 8) : Qword := (s.r.get i).setWidth 64

/-- The x87 status word with `TOS = 0` (R62 (a)). -/
def clearTop (w : BitVec 16) : BitVec 16 := w &&& 0xC7FF

/-- An MMX register written, with the x87 side effects of R62: `TOS` 0, all tags valid, sign and exponent all ones. -/
def writeMm (s : State) (i : Fin 8) (w : Qword) : State :=
  { s with
    r := s.r.set i (0xFFFF#16 ++ w)
    x87Status := clearTop s.x87Status
    x87Tag := 0 }

/-- An opmask register (R63). -/
def readK (s : State) (i : Fin 8) : Qword := s.k.get i

/-- A segment register (R50). -/
def segReg (s : State) : SegName → SegReg
  | .es => s.segs.es
  | .cs => s.segs.cs
  | .ss => s.segs.ss
  | .ds => s.segs.ds
  | .fs => s.segs.fs
  | .gs => s.segs.gs

/-! ## Writes of other processors -/

/-- One member of a list that has a first element, at a free choice. -/
def pick {α : Type} (choice : Nat) (first : α) (rest : List α) : α :=
  (first :: rest).getD (choice % (rest.length + 1)) first

/-- The byte at a physical address after the writes of other processors listed, newest first (20_memory R101). -/
def seenByte (m : Memory) : List OtherWrite → Nat → Byte
  | [], a => readByte m a
  | w :: ws, a =>
    if w.address ≤ a ∧ a < w.address + w.bytes.length then w.bytes.getD (a - w.address) 0 else seenByte m ws a

/-- Do two writes become visible in the order they are listed in: they are ordinary writes of one processor (20_memory R101: its
writes are not reordered with each other, with exceptions for non-temporal and string stores)? -/
def keepsOrder (u w : OtherWrite) : Bool :=
  u.writer == w.writer && u.kind == .ordinary && w.kind == .ordinary

/-- May a write become visible next: it is pending, none before it that it keeps the order with is, and none that it follows is
(20_memory R101: one processor's writes are seen in its order, with the exceptions, and causality is obeyed)? -/
def mayLand (ps : List OtherWrite) (w : OtherWrite) : Bool :=
  ps.find? (fun u => u == w || keepsOrder u w) == some w && ps.all (fun u => !w.after.contains u.id)

/-- At most `n` writes become visible, one after the other; how many and which of those that may is free (20_memory R101). -/
def landFrom (draws : Nat) : Nat → List OtherWrite → List OtherWrite → List OtherWrite × List OtherWrite
  | 0, ps, ls => (ps, ls)
  | n + 1, ps, ls =>
    match ps.filter (mayLand ps) with
    | [] => (ps, ls)
    | w :: ws =>
      if Config.landingGoesOn draws n then
        landFrom draws n (ps.erase (pick (Config.landingChoice draws n) w ws))
          (pick (Config.landingChoice draws n) w ws :: ls)
      else (ps, ls)

/-- The writes of other processors still pending, and those visible, when this step is over (20_memory R101). -/
def landing (s : State) : List OtherWrite × List OtherWrite :=
  landFrom s.draws s.pending.length s.pending s.landed

/-! ## Completing an instruction, and taking an exception -/

/-- `pc + n` in the mode's width (R42). -/
def pcPlus (s : State) (n : Nat) : Qword :=
  if s.mode = .long64 then s.pc + BitVec.ofNat 64 n else low32 (s.pc + BitVec.ofNat 64 n)

/-- Completing an instruction of `len` bytes: `pc <- pc + len` (R42), what became visible of other processors' writes stays so
(20_memory R101), and the model's counter moves on. -/
def retire (len : Nat) (s : State) : State :=
  { s with
    pc := pcPlus s len
    pending := (landing s).1
    landed := (landing s).2
    draws := s.draws + 1 }

/-- How an instruction ends without a next state. -/
inductive Stop where
  | fault (f : Fault)
  | refuse (r : Refusal)
  deriving DecidableEq, Repr

/-- `raise #XX(code)` (60_exceptions R231): the run ends with the fault and no register has changed. -/
def raise (f : Fault) : Host.Outcome State Fault Refusal := .fault f

/-- The outcome of a stop. -/
def Stop.outcome : Stop → Host.Outcome State Fault Refusal
  | .fault f => raise f
  | .refuse r => .refused r

/-- The vector number of a fault (60_exceptions R211). -/
def Fault.vector : Fault → Nat
  | .invalidOpcode => 6
  | .deviceNotAvailable => 7
  | .stackSegment => 12
  | .generalProtection => 13
  | .pageFault _ _ => 14
  | .mathFault => 16
  | .alignmentCheck => 17

/-- The error code of a fault, if it has one (60_exceptions R211, R228). -/
def Fault.errorCode : Fault → Option (BitVec 32)
  | .invalidOpcode => none
  | .deviceNotAvailable => none
  | .stackSegment => some 0
  | .generalProtection => some 0
  | .pageFault code _ => some code
  | .mathFault => none
  | .alignmentCheck => some 0

/-- The address a fault reports: `#PF` only (60_exceptions R231). -/
def Fault.address : Fault → Option Qword
  | .pageFault _ a => some a
  | _ => none

/-- The state the processor is in when it has raised a fault: `CR2` takes a page fault's address and nothing else changes
(60_exceptions R228, R231). The outcome of a step carries the fault alone (log 1). -/
def stateAtFault (f : Fault) (s : State) : State :=
  match f.address with
  | some a => { s with cr2 := a }
  | none => s

/-! ## The data of Translate -/

/-- Bytes of a page (log 2). -/
def pageSize : Nat := 4096

/-- Does a segment have an offset in `Prot32` (20_memory R98, D32; 60_exceptions R221, R222; log 18)? -/
def hasOffset (g : SegReg) (offset : Qword) : Bool :=
  match g.bounds with
  | .expandUp => decide (offset.toNat ≤ g.limit.toNat)
  | .expandDown big =>
    decide (g.limit.toNat < offset.toNat) && decide (offset.toNat ≤ if big then 0xFFFFFFFF else 0xFFFF)
  | .ranges rs => rs.any (fun r => decide (r.first ≤ offset.toNat) && decide (offset.toNat ≤ r.last))

/-- What reading a linear page gives at the current privilege (20_memory R98). DESIGN CHOICE (log 2): the list of pages alone says
what translation is in force, an empty one that paging is off; `CR0.PG` is not read. -/
def pageAccess (s : State) (page : Nat) : PageAccess :=
  match s.pages.find? (fun e => e.page == page) with
  | none => .mapped page
  | some e => if cpl s = 3 then e.user else e.supervisor

/-- The page-fault error code of a data read: P, W/R = 0, U/S, RSVD, I/D = 0, PK (20_memory R98). -/
def pageFaultCode (user protection reserved key : Bool) : BitVec 32 :=
  0#26 ++ BitVec.ofBool key ++ 0#1 ++ BitVec.ofBool reserved ++ BitVec.ofBool user ++ 0#1 ++ BitVec.ofBool protection

/-- The physical address of a byte at a linear address, or the error code of the page fault (20_memory R98). -/
def translate (s : State) (lin : Qword) : Except (BitVec 32) Nat :=
  match pageAccess s (lin.toNat / pageSize) with
  | .mapped frame => .ok (frame * pageSize + lin.toNat % pageSize)
  | .faults p r k => .error (pageFaultCode (cpl s == 3) p r k)

/-- What a physical address is, if it is not ordinary memory (20_memory R95). -/
def regionAt (s : State) (a : Nat) : Option RegionKind :=
  (s.regions.find? (fun g => decide (g.base ≤ a) && decide (a < g.base + g.size))).map (fun g => g.kind)

/-! ## Launch, boot and INIT -/

/-- Bits of a word set. -/
def setBits (w bits : Qword) : Qword := w ||| bits

/-- Bits of a word cleared. -/
def clearBits (w bits : Qword) : Qword := w &&& ~~~bits

/-- The boot requirements of 70 R264 to R267, done: a mode the model admits, `CR0.EM` and `CR0.TS` clear, `CR4.OSFXSR` and
`CR4.OSXSAVE` set, `XCR0` bits 0, 1, 2, 5, 6, 7 set, no x87 exception pending; and no debug event (60_exceptions R247). This
is the launch state of R263 for a program that something outside the model has loaded (log 5). -/
def State.boot (s : State) : State :=
  { s with
    mode := .long64
    cr0 := clearBits s.cr0 0xC
    cr4 := setBits s.cr4 0x40200
    xcr0 := setBits s.xcr0 0xE7
    x87Status := s.x87Status &&& 0xFF7F
    eflags := s.eflags &&& 0xFFFFFEFF
    dr7 := clearBits s.dr7 0xFF }

/-- The general registers after INIT (R70): the reset values, with bits 63:32 of the first eight 0 (DESIGN CHOICE, logs 7 and
20), and `R8` to `R15` free (log 20). -/
def registersAfterInit (draws : Nat) : Vector Qword 16 :=
  Vector.ofFn (fun i : Fin 16 =>
    if i.val < 8 then State.reset.x.get i else Config.extendedAfterInit draws (Fin.ofNat 8 (i.val - 8)))

/-- INIT, the warm reset of the core (10_state R70, 70 R262): `CR0` keeps `CD` and `NW`, has bit 4 set and the rest clear. It
comes from outside and is no instruction: no step takes it. The table gives a segment's selector, base and limit; that its right
to read and its bounds are set as after reset is the model's choice (PRESUMED, logs 9 and 20). What else the table does not name is unchanged
(log 20). -/
def State.init (s : State) : State :=
  { s with
    pc := State.reset.pc
    x := registersAfterInit s.draws
    cr0 := (s.cr0 &&& 0x60000000) ||| 0x10
    cr4 := 0
    eflags := 2
    segs := resetSegments
    mode := .realAddress
    draws := s.draws + 1 }

end Sys2Proof.Machine
end

