-- ==== Sys2Proof/Machine/Operands.lean ====
section
/-! DEFINITION. The second source: effective address (30_encoding R134 to R140), segment and linear address (R137, 20_memory
R96), the faults of a memory operand and its bytes (20_memory R84 to R99). -/

namespace Sys2Proof.Machine

/-! ## Effective address -/

/-- Where a memory operand is: its segment, its effective address, and whether the address size is 32 bits. -/
structure Place where
  seg : SegName
  narrow : Bool
  ea : Qword
  deriving DecidableEq, Repr

/-- The address size is 32 bits: always in `Prot32`, with `67` in `Long64` (R138). -/
def narrowAddress (s : State) (p : Prefixes) : Bool :=
  s.mode != .long64 || p.addrsize

/-- An address cut to the address size and zero-extended (R134). -/
def cutAddress (narrow : Bool) (a : Qword) : Qword :=
  if narrow then low32 a else a

/-- A displacement: one byte is sign-extended and multiplied by `n`, four bytes are sign-extended (R139). -/
def dispValue (n : Nat) : Disp → Qword
  | .none => 0
  | .disp8 b => b.signExtend 64 * BitVec.ofNat 64 n
  | .disp32 d => d.signExtend 64

/-- The scaled index (R134). -/
def indexValue (s : State) (scale : Fin 4) : Option (Fin 16) → Qword
  | none => 0
  | some i => readX s i <<< scale.val

/-- The effective address (R134, R136) of an instruction of `len` bytes whose one-byte displacement is scaled by `n`. -/
def effectiveAddress (s : State) (narrow : Bool) (n len : Nat) (m : MemOperand) : Qword :=
  cutAddress narrow
    (match m with
      | .base r d => readX s r + dispValue n d
      | .sib sc i r d => readX s r + indexValue s sc i + dispValue n d
      | .sibNoBase sc i d => indexValue s sc i + d.signExtend 64
      | .pcRelative d => pcPlus s len + d.signExtend 64
      | .absolute d => d.signExtend 64)

/-- The default segment: `SS` for base registers 4 and 5, `DS` otherwise (R137). -/
def defaultSegment : MemOperand → SegName
  | .base r _ => if r = 4 ∨ r = 5 then .ss else .ds
  | .sib _ _ r _ => if r = 4 ∨ r = 5 then .ss else .ds
  | _ => .ds

/-- Where the memory operand is (R134, R137, R138). -/
def placeOf (s : State) (p : Prefixes) (n len : Nat) (m : MemOperand) : Place :=
  { seg := p.seg.getD (defaultSegment m)
    narrow := narrowAddress s p
    ea := effectiveAddress s (narrowAddress s p) n len m }

/-! ## Linear address -/

/-- The base a segment contributes: in `Long64` only `FS` and `GS` have one (20_memory R96, R50). -/
def segmentBase (s : State) (g : SegName) : Qword :=
  if s.mode = .long64 then
    match g with
    | .fs => s.segs.fs.base
    | .gs => s.segs.gs.base
    | _ => 0
  else (segReg s g).base

/-- The offset of byte `k` of the operand in its segment (20_memory R99). -/
def byteOffset (pl : Place) (k : Nat) : Qword :=
  cutAddress pl.narrow (pl.ea + BitVec.ofNat 64 k)

/-- The linear address of byte `k` (20_memory R96, R99). -/
def byteLinear (s : State) (pl : Place) (k : Nat) : Qword :=
  cutAddress (s.mode != .long64) (segmentBase s pl.seg + byteOffset pl k)

/-- Bits `63 : bits-1` all equal (20_memory R97). -/
def canonical (bits : Nat) (a : Qword) : Bool :=
  a.toNat >>> (bits - 1) == 0 || a.toNat >>> (bits - 1) == 2 ^ (65 - bits) - 1

/-- A null selector (60_exceptions R222; its form is the family's, log 18). -/
def nullSelector (g : SegReg) : Bool :=
  g.selector.extractLsb' 2 14 == 0

/-- The `Prot32` segment checks: null selector, right to read, bounds (60_exceptions R221, R222, D32). -/
def segmentViolation (g : SegReg) (offset : Qword) : Bool :=
  nullSelector g || !g.readable || !hasOffset g offset

/-- Byte `k` has a bad address: non-canonical in `Long64` (20_memory R97), outside its segment's rights in `Prot32`. -/
def badByte (s : State) (pl : Place) (k : Nat) : Bool :=
  if s.mode = .long64 then !canonical (linearBits s) (byteLinear s pl k)
  else segmentViolation (segReg s pl.seg) (byteOffset pl k)

/-- The fault of a bad address: `#SS(0)` through `SS`, `#GP(0)` otherwise (60_exceptions R221, R222 (b); that the rights of `SS`,
too, give `#SS(0)`: D32, log 18). -/
def badAddressFault (g : SegName) : Fault :=
  if g = .ss then .stackSegment else .generalProtection

/-! ## MemRead -/

/-- What a form asks of its memory operand's address. -/
inductive AlignRule where
  /-- rows 2 to 4: 16 bytes, else `#GP(0)` (R88) -/
  | sixteen
  /-- row 1: 8 bytes under alignment checking, else `#AC(0)` (R91) -/
  | eight
  /-- rows 5 to 22: nothing (R89), refused where `#AC` would be in question (R91, D10) -/
  | free
  deriving DecidableEq, Repr

/-- Is the linear address no multiple of `n`? -/
def unaligned (s : State) (pl : Place) (n : Nat) : Bool :=
  (byteLinear s pl 0).toNat % n != 0

/-- The alignment condition of a form: a refusal, a fault, or nothing (20_memory R88 to R91). -/
def alignmentStop (s : State) (pl : Place) (n : Nat) : AlignRule → Except Refusal (Option Fault)
  | .sixteen =>
    if (segmentBase s pl.seg).toNat % 16 ≠ 0 then .error .unalignedSegmentBase
    else .ok (if unaligned s pl 16 then some .generalProtection else none)
  | .eight => .ok (if alignCheckEnabled s && unaligned s pl 8 then some .alignmentCheck else none)
  | .free => if alignCheckEnabled s && unaligned s pl n then .error .vectorAlignmentCheck else .ok none

/-- The page fault byte `k` would take: error code and linear address (20_memory R98). -/
def bytePageFault (s : State) (pl : Place) (k : Nat) : Option (BitVec 32 × Qword) :=
  match translate s (byteLinear s pl k) with
  | .ok _ => none
  | .error code => some (code, byteLinear s pl k)

/-- The page fault of the operand, if one of the bytes counted takes one: which byte reports it is free (20_memory R98). -/
def operandPageFault (s : State) (pl : Place) (bytes : List Nat) : Option Fault :=
  match bytes.filterMap (bytePageFault s pl) with
  | [] => none
  | f :: fs =>
    let q := pick (Config.pageFaultChoice s.draws) f fs
    some (.pageFault q.1 q.2)

/-- Which condition of priority level 6 is reported (60_exceptions R229): free where two hold. -/
def levelSix (s : State) (alignment page : Option Fault) : Option Fault :=
  match alignment, page with
  | none, none => none
  | some f, none => some f
  | none, some f => some f
  | some f, some g => some (pick (Config.levelSixChoice s.draws) f [g])

/-- The physical address of byte `k`, where it can be read. -/
def bytePhysical (s : State) (pl : Place) (k : Nat) : Option Nat :=
  if badByte s pl k then none
  else
    match translate s (byteLinear s pl k) with
    | .ok a => some a
    | .error _ => none

/-- The refusal of a byte that is not ordinary memory (20_memory R95, D12). -/
def regionRefusal : RegionKind → Refusal
  | .device => .deviceOperand
  | .notWriteBack => .notWriteBackOperand

/-- Byte `k` lies on a device, or on memory that is not write-back. -/
def byteRegion (s : State) (pl : Place) (k : Nat) : Option Refusal :=
  match bytePhysical s pl k with
  | none => none
  | some a => (regionAt s a).map regionRefusal

/-- Is a read of `n` bytes single-copy atomic: at most 8 bytes, consecutive, on a multiple of `n` (20_memory R93, D11)? -/
def atomicRead (s : State) (pl : Place) (n : Nat) : Bool :=
  decide (n ≤ 8) && (byteLinear s pl 0).toNat % n == 0
    && (byteLinear s pl (n - 1)).toNat == (byteLinear s pl 0).toNat + (n - 1)

/-- How many of the `fresh` writes that become visible at this step a read does not see; `key` is 0 for an atomic read, which
sees one moment, and the byte's address otherwise. -/
def unseen (s : State) (fresh key : Nat) : Nat :=
  match fresh with
  | 0 => 0
  | f + 1 => Config.readAge s.draws key % (f + 2)

/-- The writes of other processors that the byte at physical address `a` of an operand of `n` bytes is read after: all those
that were visible before this step, and some, in order, that become visible during it (20_memory R93, R101). -/
def landedSeen (s : State) (pl : Place) (n a : Nat) : List OtherWrite :=
  (landing s).2.drop
    (unseen s ((landing s).2.length - s.landed.length) (if atomicRead s pl n then 0 else a))

/-- The byte that the data read of physical address `a` in an operand of `n` bytes gives (20_memory R93, R101). -/
def dataByte (s : State) (pl : Place) (n a : Nat) : Byte :=
  seenByte s.mem (landedSeen s pl n a) a

/-- Byte `k` of an operand of `n` bytes. A byte that cannot be read counts only where its fault is suppressed, and its value is
then never used (20_memory R94). -/
def byteValue (s : State) (pl : Place) (n k : Nat) : Byte :=
  match bytePhysical s pl k with
  | none => 0
  | some a => dataByte s pl n a

/-- The bytes whose faults count: with a writemask, the processor may leave out those of masked-off elements (20_memory R94,
D9). -/
def countedBytes (s : State) (n : Nat) (masked : Bool) (active : Nat → Bool) : List Nat :=
  (List.range n).filter (fun k => !masked || active k || !Config.suppressMaskedFaults s.draws k)

/-- `MemRead` (20_memory R99) of `n` bytes, in the priority of 60_exceptions R229: bad addresses, then the alignment
condition and page faults, then the kind of memory. `active k` says whether byte `k` belongs to an element that is not masked
off. -/
def memRead (s : State) (pl : Place) (n : Nat) (rule : AlignRule) (masked : Bool) (active : Nat → Bool) :
    Except Stop (List Byte) :=
  let counted := countedBytes s n masked active
  if counted.any (badByte s pl) then .error (.fault (badAddressFault pl.seg))
  else
    match alignmentStop s pl n rule with
    | .error r => .error (.refuse r)
    | .ok alignment =>
      match levelSix s alignment (operandPageFault s pl counted) with
      | some f => .error (.fault f)
      | none =>
        match (List.range n).findSome? (byteRegion s pl) with
        | some r => .error (.refuse r)
        | none => .ok ((List.range n).map (byteValue s pl n))

/-! ## The second source of each layout -/

/-- A legacy or VEX register number among the 32. -/
def vreg (r : Fin 16) : Fin 32 := Fin.castLE (by decide) r

/-- A full-width memory operand of `VL` bits, unmasked. -/
def loadFull (VL : Nat) (rule : AlignRule) (p : Prefixes) (len : Nat) (m : MemOperand) (s : State) :
    Except Stop (BitVec VL) :=
  match memRead s (placeOf s p 1 len m) (VL / 8) rule false (fun _ => true) with
  | .error e => .error e
  | .ok bytes => .ok (BitVec.ofNat VL (littleEndian bytes))

/-- The second source of row 1: `MM[rm]` or `m64` (40 R171). -/
def mmxSource (o : MmxOperands) (len : Nat) (s : State) : Except Stop Qword :=
  match o.src with
  | .reg r => .ok (readMm s r)
  | .mem m => loadFull 64 .eight o.pfx len m s

/-- The second source of rows 2 to 4: a register or an aligned `m128` (40 R172). -/
def sseSource (o : SseOperands) (len : Nat) (s : State) : Except Stop (BitVec 128) :=
  match o.src with
  | .reg r => .ok (readV 128 s (vreg r))
  | .mem m => loadFull 128 .sixteen o.pfx len m s

/-- The second source of rows 5 to 10 (41 R180). -/
def vexSource (VL : Nat) (o : VexOperands) (len : Nat) (s : State) : Except Stop (BitVec VL) :=
  match o.src with
  | .reg r => .ok (readV VL s (vreg r))
  | .mem m => loadFull VL .free o.pfx len m s

/-- Is a writemask named (30_encoding R130)? -/
def isMasked (o : EvexOperands) : Bool := o.aaa != 0

/-- Does byte `k` of a full-width operand of `N`-bit elements belong to an element that is not masked off? -/
def byteActive (N : Nat) (o : EvexOperands) (s : State) (k : Nat) : Bool :=
  laneActive (readK s o.aaa) (isMasked o) (k / (N / 8))

/-- Is any of the `KL` elements not masked off (20_memory R94)? -/
def anyActive (N VL : Nat) (o : EvexOperands) (s : State) : Bool :=
  (List.range (VL / N)).any (laneActive (readK s o.aaa) (isMasked o))

/-- The second source of rows 11 to 22: a register, a full-width operand (`disp8` scaled by `VL/8`) or one broadcast element
(`disp8` scaled by `N/8`) (42 R190, 43 R200, 30_encoding R140). -/
def evexSource (N VL : Nat) (o : EvexOperands) (len : Nat) (s : State) : Except Stop (BitVec VL) :=
  match o.src with
  | .reg r => .ok (readV VL s r)
  | .mem m =>
    if o.b then
      match memRead s (placeOf s o.pfx (N / 8) len m) (N / 8) .free (isMasked o) (fun _ => anyActive N VL o s) with
      | .error e => .error e
      | .ok bytes => .ok (bcast N VL (BitVec.ofNat N (littleEndian bytes)))
    else
      match memRead s (placeOf s o.pfx (VL / 8) len m) (VL / 8) .free (isMasked o) (byteActive N o s) with
      | .error e => .error e
      | .ok bytes => .ok (BitVec.ofNat VL (littleEndian bytes))

end Sys2Proof.Machine
end

