-- ==== Sys2Proof/Machine/Checks.lean ====
section
/-! DEFINITION. The pre-execution checks of 60_exceptions rule R230. Each returns `none`, or the stop; none changes state. -/

namespace Sys2Proof.Machine

/-- The launch states the spec refuses for every form: a mode but the two of R240, single-step, an enabled breakpoint (R247), a
`Features` set that breaks an implication of R213. -/
def launchStop (s : State) : Option Refusal :=
  if s.mode ≠ .long64 ∧ s.mode ≠ .prot32 then some .modeNotAdmitted
  else if eflagsTf s then some .singleStep
  else if breakpointOn s then some .breakpointEnabled
  else if !featuresClosed s.features then some .featuresNotClosed
  else none

/-- A prefix that is `#UD` before a VEX or EVEX prefix (30_encoding R122, R128). -/
def illegalBeforeVex (p : Prefixes) : Bool :=
  p.lock || p.opsize || p.repne || p.rep || p.rex

/-- The reserved EVEX encodings that reach a row: `b` without a broadcast, `z` without a writemask (30_encoding R149, R150);
`broadcast` says whether the row has a broadcast form. -/
def evexReservedForm (broadcast : Bool) (o : EvexOperands) : Bool :=
  (o.b && (!broadcast || (match o.src with
    | .reg _ => true
    | .mem _ => false))) || (o.z && !isMasked o)

/-- `Check_MMX` (R230). -/
def checkMmx (p : Prefixes) (s : State) : Option Stop :=
  match launchStop s with
  | some r => some (.refuse r)
  | none =>
    if p.lock then some (.fault .invalidOpcode)
    else if !hasFeature s.features .sse then some (.fault .invalidOpcode)
    else if cr0Em s then some (.fault .invalidOpcode)
    else if !cr4Osfxsr s then some (.refuse .mmxWithoutOsfxsr)
    else if cr0Ts s then some (.fault .deviceNotAvailable)
    else if x87Pending s then (if cr0Ne s then some (.fault .mathFault) else some (.refuse .externalMathError))
    else none

/-- `Check_SSE(flag)` (R230). -/
def checkSse (flag : Feature) (p : Prefixes) (s : State) : Option Stop :=
  match launchStop s with
  | some r => some (.refuse r)
  | none =>
    if p.lock then some (.fault .invalidOpcode)
    else if !hasFeature s.features flag then some (.fault .invalidOpcode)
    else if cr0Em s || !cr4Osfxsr s then some (.fault .invalidOpcode)
    else if cr0Ts s then some (.fault .deviceNotAvailable)
    else none

/-- `Check_VEX(flag)` (R230). -/
def checkVex (flag : Feature) (p : Prefixes) (s : State) : Option Stop :=
  match launchStop s with
  | some r => some (.refuse r)
  | none =>
    if illegalBeforeVex p then some (.fault .invalidOpcode)
    else if !cr4Osxsave s || !xcr0Avx s then some (.fault .invalidOpcode)
    else if !hasFeature s.features flag then some (.fault .invalidOpcode)
    else if cr0Ts s then some (.fault .deviceNotAvailable)
    else none

/-- `Check_EVEX(flags)` (R230). -/
def checkEvex (flags : List Feature) (broadcast : Bool) (o : EvexOperands) (s : State) : Option Stop :=
  match launchStop s with
  | some r => some (.refuse r)
  | none =>
    if illegalBeforeVex o.pfx then some (.fault .invalidOpcode)
    else if evexReservedForm broadcast o then some (.fault .invalidOpcode)
    else if !cr4Osxsave s || !xcr0Avx s || !xcr0Avx512 s then some (.fault .invalidOpcode)
    else if !hasAll s.features flags then some (.fault .invalidOpcode)
    else if cr0Ts s then some (.fault .deviceNotAvailable)
    else none

end Sys2Proof.Machine
end

