-- ==== Sys2Proof/Machine/Evex.lean ====
section
/-! DEFINITION. What the EVEX forms share (42_evex_bw rule R190, 43_evex_dq rule R200). -/

namespace Sys2Proof.Machine

/-- What an EVEX form leaves when the second source is `b` (R190, R200): the masked result, zeros above `VL` whatever the
mask (90_conflicts C7). -/
def evexResult (N VL : Nat) (o : EvexOperands) (len : Nat) (b : BitVec VL) (s : State) : State :=
  retire len
    (writeVZero s o.d
      (maskMerge N VL (pmaxs N VL (readV VL s o.s1) b) (readV VL s o.d) (readK s o.aaa) (isMasked o) o.z))

/-- An EVEX form; `broadcast` says whether it has a broadcast form (R190, R200). -/
def runEvex (N VL : Nat) (flags : List Feature) (broadcast : Bool) (o : EvexOperands) (len : Nat) (s : State) :
    Host.Outcome State Fault Refusal :=
  match checkEvex flags broadcast o s with
  | some e => e.outcome
  | none =>
    match evexSource N VL o len s with
    | .error e => e.outcome
    | .ok b => .next (evexResult N VL o len b s)

end Sys2Proof.Machine
end

