-- ==== Sys2Proof/Machine/EvexBw.lean ====
section
/-! DEFINITION. The EVEX byte and word forms, rows 11 to 16 (42_evex_bw rules R190 to R196): no broadcast. -/

namespace Sys2Proof.Machine

/-- Row 11, `VPMAXSB xmm1 (k1, z), xmm2, xmm3/m128` (R191). -/
def execVpmaxsbEvex128 (o : EvexOperands) (s : State) : Host.Outcome State Fault Refusal :=
  runEvex 8 128 [.avx512vl, .avx512bw] false o (Instr.vpmaxsbEvex128 o).length s

/-- Row 12, `VPMAXSB ymm1 (k1, z), ymm2, ymm3/m256` (R192). -/
def execVpmaxsbEvex256 (o : EvexOperands) (s : State) : Host.Outcome State Fault Refusal :=
  runEvex 8 256 [.avx512vl, .avx512bw] false o (Instr.vpmaxsbEvex256 o).length s

/-- Row 13, `VPMAXSB zmm1 (k1, z), zmm2, zmm3/m512` (R193). -/
def execVpmaxsbEvex512 (o : EvexOperands) (s : State) : Host.Outcome State Fault Refusal :=
  runEvex 8 512 [.avx512bw] false o (Instr.vpmaxsbEvex512 o).length s

/-- Row 14, `VPMAXSW xmm1 (k1, z), xmm2, xmm3/m128` (R194). -/
def execVpmaxswEvex128 (o : EvexOperands) (s : State) : Host.Outcome State Fault Refusal :=
  runEvex 16 128 [.avx512vl, .avx512bw] false o (Instr.vpmaxswEvex128 o).length s

/-- Row 15, `VPMAXSW ymm1 (k1, z), ymm2, ymm3/m256` (R195). -/
def execVpmaxswEvex256 (o : EvexOperands) (s : State) : Host.Outcome State Fault Refusal :=
  runEvex 16 256 [.avx512vl, .avx512bw] false o (Instr.vpmaxswEvex256 o).length s

/-- Row 16, `VPMAXSW zmm1 (k1, z), zmm2, zmm3/m512` (R196). -/
def execVpmaxswEvex512 (o : EvexOperands) (s : State) : Host.Outcome State Fault Refusal :=
  runEvex 16 512 [.avx512bw] false o (Instr.vpmaxswEvex512 o).length s

end Sys2Proof.Machine
end

