-- ==== Sys2Proof/Machine/EvexDq.lean ====
section
/-! DEFINITION. The EVEX dword and qword forms, rows 17 to 22 (43_evex_dq rules R200 to R206): with broadcast. -/

namespace Sys2Proof.Machine

/-- Row 17, `VPMAXSD xmm1 (k1, z), xmm2, xmm3/m128/m32bcst` (R201). -/
def execVpmaxsdEvex128 (o : EvexOperands) (s : State) : Host.Outcome State Fault Refusal :=
  runEvex 32 128 [.avx512vl, .avx512f] true o (Instr.vpmaxsdEvex128 o).length s

/-- Row 18, `VPMAXSD ymm1 (k1, z), ymm2, ymm3/m256/m32bcst` (R202). -/
def execVpmaxsdEvex256 (o : EvexOperands) (s : State) : Host.Outcome State Fault Refusal :=
  runEvex 32 256 [.avx512vl, .avx512f] true o (Instr.vpmaxsdEvex256 o).length s

/-- Row 19, `VPMAXSD zmm1 (k1, z), zmm2, zmm3/m512/m32bcst` (R203). -/
def execVpmaxsdEvex512 (o : EvexOperands) (s : State) : Host.Outcome State Fault Refusal :=
  runEvex 32 512 [.avx512f] true o (Instr.vpmaxsdEvex512 o).length s

/-- Row 20, `VPMAXSQ xmm1 (k1, z), xmm2, xmm3/m128/m64bcst` (R204). -/
def execVpmaxsqEvex128 (o : EvexOperands) (s : State) : Host.Outcome State Fault Refusal :=
  runEvex 64 128 [.avx512vl, .avx512f] true o (Instr.vpmaxsqEvex128 o).length s

/-- Row 21, `VPMAXSQ ymm1 (k1, z), ymm2, ymm3/m256/m64bcst` (R205). -/
def execVpmaxsqEvex256 (o : EvexOperands) (s : State) : Host.Outcome State Fault Refusal :=
  runEvex 64 256 [.avx512vl, .avx512f] true o (Instr.vpmaxsqEvex256 o).length s

/-- Row 22, `VPMAXSQ zmm1 (k1, z), zmm2, zmm3/m512/m64bcst` (R206). -/
def execVpmaxsqEvex512 (o : EvexOperands) (s : State) : Host.Outcome State Fault Refusal :=
  runEvex 64 512 [.avx512f] true o (Instr.vpmaxsqEvex512 o).length s

end Sys2Proof.Machine
end

