-- ==== Sys2Proof/Machine/Legacy.lean ====
section
/-! DEFINITION. The legacy forms, rows 1 to 4 (40_legacy_mmx_sse rules R170 to R174). -/

namespace Sys2Proof.Machine

/-- What row 1 leaves when its second source is `b` (R171): the maxima, the x87 side effects, `pc` past the instruction. -/
def mmxResult (N : Nat) (o : MmxOperands) (len : Nat) (b : Qword) (s : State) : State :=
  retire len (writeMm s o.d (pmaxs N 64 (readMm s o.d) b))

/-- A form on MMX registers (R170, R171). -/
def runMmx (N : Nat) (o : MmxOperands) (len : Nat) (s : State) : Host.Outcome State Fault Refusal :=
  match checkMmx o.pfx s with
  | some e => e.outcome
  | none =>
    match mmxSource o len s with
    | .error e => e.outcome
    | .ok b => .next (mmxResult N o len b s)

/-- What rows 2 to 4 leave when the second source is `b` (R172 to R174): bits above 127 are kept. -/
def sseResult (N : Nat) (o : SseOperands) (len : Nat) (b : BitVec 128) (s : State) : State :=
  retire len (writeXmmKeep s (vreg o.d) (pmaxs N 128 (readV 128 s (vreg o.d)) b))

/-- A legacy form on vector registers (R170, R172). -/
def runSse (N : Nat) (flag : Feature) (o : SseOperands) (len : Nat) (s : State) : Host.Outcome State Fault Refusal :=
  match checkSse flag o.pfx s with
  | some e => e.outcome
  | none =>
    match sseSource o len s with
    | .error e => e.outcome
    | .ok b => .next (sseResult N o len b s)

/-- Row 1, `PMAXSW mm1, mm2/m64` (R171). -/
def execPmaxswMmx (o : MmxOperands) (s : State) : Host.Outcome State Fault Refusal :=
  runMmx 16 o (Instr.pmaxswMmx o).length s

/-- Row 2, `PMAXSB xmm1, xmm2/m128` (R172). -/
def execPmaxsbXmm (o : SseOperands) (s : State) : Host.Outcome State Fault Refusal :=
  runSse 8 .sse41 o (Instr.pmaxsbXmm o).length s

/-- Row 3, `PMAXSW xmm1, xmm2/m128` (R173). -/
def execPmaxswXmm (o : SseOperands) (s : State) : Host.Outcome State Fault Refusal :=
  runSse 16 .sse2 o (Instr.pmaxswXmm o).length s

/-- Row 4, `PMAXSD xmm1, xmm2/m128` (R174). -/
def execPmaxsdXmm (o : SseOperands) (s : State) : Host.Outcome State Fault Refusal :=
  runSse 32 .sse41 o (Instr.pmaxsdXmm o).length s

end Sys2Proof.Machine
end

