-- ==== Sys2Proof/Machine/Vex.lean ====
section
/-! DEFINITION. The VEX forms, rows 5 to 10 (41_vex rules R180 to R186). -/

namespace Sys2Proof.Machine

/-- What a VEX form leaves when the second source is `b` (R180): bits above `VL` are zero. -/
def vexResult (N VL : Nat) (o : VexOperands) (len : Nat) (b : BitVec VL) (s : State) : State :=
  retire len (writeVZero s (vreg o.d) (pmaxs N VL (readV VL s (vreg o.s1)) b))

/-- A VEX form (R180, R181). -/
def runVex (N VL : Nat) (flag : Feature) (o : VexOperands) (len : Nat) (s : State) : Host.Outcome State Fault Refusal :=
  match checkVex flag o.pfx s with
  | some e => e.outcome
  | none =>
    match vexSource VL o len s with
    | .error e => e.outcome
    | .ok b => .next (vexResult N VL o len b s)

/-- Row 5, `VPMAXSB xmm1, xmm2, xmm3/m128` (R181). -/
def execVpmaxsbVex128 (o : VexOperands) (s : State) : Host.Outcome State Fault Refusal :=
  runVex 8 128 .avx o (Instr.vpmaxsbVex128 o).length s

/-- Row 6, `VPMAXSW xmm1, xmm2, xmm3/m128` in its three-byte encoding (R182). -/
def execVpmaxswVex128 (o : VexOperands) (s : State) : Host.Outcome State Fault Refusal :=
  runVex 16 128 .avx o (Instr.vpmaxswVex128 o).length s

/-- Row 6, `VPMAXSW xmm1, xmm2, xmm3/m128` in its two-byte encoding (R182). -/
def execVpmaxswVex128Short (o : VexOperands) (s : State) : Host.Outcome State Fault Refusal :=
  runVex 16 128 .avx o (Instr.vpmaxswVex128Short o).length s

/-- Row 7, `VPMAXSD xmm1, xmm2, xmm3/m128` (R183). -/
def execVpmaxsdVex128 (o : VexOperands) (s : State) : Host.Outcome State Fault Refusal :=
  runVex 32 128 .avx o (Instr.vpmaxsdVex128 o).length s

/-- Row 8, `VPMAXSB ymm1, ymm2, ymm3/m256` (R184). -/
def execVpmaxsbVex256 (o : VexOperands) (s : State) : Host.Outcome State Fault Refusal :=
  runVex 8 256 .avx2 o (Instr.vpmaxsbVex256 o).length s

/-- Row 9, `VPMAXSW ymm1, ymm2, ymm3/m256` in its three-byte encoding (R185). -/
def execVpmaxswVex256 (o : VexOperands) (s : State) : Host.Outcome State Fault Refusal :=
  runVex 16 256 .avx2 o (Instr.vpmaxswVex256 o).length s

/-- Row 9, `VPMAXSW ymm1, ymm2, ymm3/m256` in its two-byte encoding (R185). -/
def execVpmaxswVex256Short (o : VexOperands) (s : State) : Host.Outcome State Fault Refusal :=
  runVex 16 256 .avx2 o (Instr.vpmaxswVex256Short o).length s

/-- Row 10, `VPMAXSD ymm1, ymm2, ymm3/m256` (R186). -/
def execVpmaxsdVex256 (o : VexOperands) (s : State) : Host.Outcome State Fault Refusal :=
  runVex 32 256 .avx2 o (Instr.vpmaxsdVex256 o).length s

end Sys2Proof.Machine
end

