-- ==== Sys2Proof/Machine/Dispatch.lean ====
section
/-! DEFINITION. The meaning of each instruction, one arm per constructor of Instr. -/

namespace Sys2Proof.Machine

def exec (i : Instr) (s : State) : Host.Outcome State Fault Refusal :=
  match i with
  | .pmaxswMmx o => Sys2Proof.Machine.execPmaxswMmx o s
  | .pmaxsbXmm o => Sys2Proof.Machine.execPmaxsbXmm o s
  | .pmaxswXmm o => Sys2Proof.Machine.execPmaxswXmm o s
  | .pmaxsdXmm o => Sys2Proof.Machine.execPmaxsdXmm o s
  | .vpmaxsbVex128 o => Sys2Proof.Machine.execVpmaxsbVex128 o s
  | .vpmaxswVex128 o => Sys2Proof.Machine.execVpmaxswVex128 o s
  | .vpmaxswVex128Short o => Sys2Proof.Machine.execVpmaxswVex128Short o s
  | .vpmaxsdVex128 o => Sys2Proof.Machine.execVpmaxsdVex128 o s
  | .vpmaxsbVex256 o => Sys2Proof.Machine.execVpmaxsbVex256 o s
  | .vpmaxswVex256 o => Sys2Proof.Machine.execVpmaxswVex256 o s
  | .vpmaxswVex256Short o => Sys2Proof.Machine.execVpmaxswVex256Short o s
  | .vpmaxsdVex256 o => Sys2Proof.Machine.execVpmaxsdVex256 o s
  | .vpmaxsbEvex128 o => Sys2Proof.Machine.execVpmaxsbEvex128 o s
  | .vpmaxsbEvex256 o => Sys2Proof.Machine.execVpmaxsbEvex256 o s
  | .vpmaxsbEvex512 o => Sys2Proof.Machine.execVpmaxsbEvex512 o s
  | .vpmaxswEvex128 o => Sys2Proof.Machine.execVpmaxswEvex128 o s
  | .vpmaxswEvex256 o => Sys2Proof.Machine.execVpmaxswEvex256 o s
  | .vpmaxswEvex512 o => Sys2Proof.Machine.execVpmaxswEvex512 o s
  | .vpmaxsdEvex128 o => Sys2Proof.Machine.execVpmaxsdEvex128 o s
  | .vpmaxsdEvex256 o => Sys2Proof.Machine.execVpmaxsdEvex256 o s
  | .vpmaxsdEvex512 o => Sys2Proof.Machine.execVpmaxsdEvex512 o s
  | .vpmaxsqEvex128 o => Sys2Proof.Machine.execVpmaxsqEvex128 o s
  | .vpmaxsqEvex256 o => Sys2Proof.Machine.execVpmaxsqEvex256 o s
  | .vpmaxsqEvex512 o => Sys2Proof.Machine.execVpmaxsqEvex512 o s

end Sys2Proof.Machine
end

