-- ==== Sys2Proof/Machine/Fetch.lean ====
section
/-! DEFINITION. Fetching the bytes of the next instruction: the model's parameter for what the spec leaves to one (10_state rule
R42, decision D25; log 4). Bytes are taken at increasing addresses (20_memory rule R87) from the one memory (R80);
the program is fixed during the run (R104), so no byte that another processor writes is among them (log 22). -/

namespace Sys2Proof.Machine

/-- The physical address of byte `k` of the instruction at `pc`, where it can be fetched: canonical in `Long64`, inside the code
segment's bounds in `Prot32`, and on a page that can be read. -/
def fetchAddr (s : State) (k : Nat) : Option Nat :=
  match s.mode with
  | .long64 =>
    if canonical (linearBits s) (pcPlus s k) then (translate s (pcPlus s k)).toOption else none
  | .prot32 =>
    if hasOffset s.segs.cs (pcPlus s k) then (translate s (low32 (s.segs.cs.base + pcPlus s k))).toOption
    else none
  | _ => none

/-- At most `n` instruction bytes from byte `k` on, up to the first that cannot be fetched. -/
def fetchFrom (s : State) : Nat → Nat → List Byte
  | 0, _ => []
  | n + 1, k =>
    match fetchAddr s k with
    | none => []
    | some a => readByte s.mem a :: fetchFrom s n (k + 1)

/-- The bytes at `pc`, at most 15 (20_memory R92). -/
def fetchBytes (s : State) : List Byte :=
  fetchFrom s maxLength 0

/-- Bytes that decode to no instruction: `#UD` for the reserved EVEX patterns (30_encoding R147 step 4, R148, R151), no meaning
otherwise. -/
def undecodable (e : DecodeError) : Host.Outcome State Fault Refusal :=
  if e.isUndefinedOpcode then raise .invalidOpcode else .refused (.undecodable e)

/-- Bytes placed in memory where the instruction at `pc` is fetched, from its byte `k` on. -/
def storeFrom (s : State) (k : Nat) : List Byte → State
  | [] => s
  | b :: bs =>
    match fetchAddr s k with
    | none => s
    | some a => storeFrom { s with mem := writeByte s.mem a b } (k + 1) bs

end Sys2Proof.Machine
end

