-- ==== Sys2Proof/Machine/Step.lean ====
section
/-! DEFINITION. One step: fetch, decode, run (60_exceptions rule R246, 10_state rule R42). -/

namespace Sys2Proof.Machine

/-- One step of the logical processor: the instruction at `pc`, whole. -/
def step (s : State) : Host.Outcome State Fault Refusal :=
  match launchStop s with
  | some r => .refused r
  | none =>
    match decode s.mode (fetchBytes s) with
    | .ok (i, _) => exec i s
    | .error e => undecodable e

/-- The state with an opcode-table word placed at `pc`, as whoever launches the run places a program (70 rule R263): booted, for
the processor decodes no instruction of the family as it leaves reset (R70, log 5). -/
def State.withFetchWord (s : State) (nbits w : Nat) : State :=
  storeFrom (State.boot s) 0 (tableImage nbits w)

end Sys2Proof.Machine
end

