-- ==== Sys2Proof/Safety.lean ====
section
/-! DEFINITION. What claims about runs are stated with: when a form may execute, what its second source is, what a completed
form leaves, and the invariant of the machine. Written from the rules, beside the meanings and not from them. -/

namespace Sys2Proof.Safety

open Sys2Proof.Machine

/-! ## When a form executes -/

/-- The row's CPUID feature flags (00_scope R2). -/
def rowFeatures : Instr → List Feature
  | .pmaxswMmx _ => [.sse]
  | .pmaxsbXmm _ => [.sse41]
  | .pmaxswXmm _ => [.sse2]
  | .pmaxsdXmm _ => [.sse41]
  | .vpmaxsbVex128 _ => [.avx]
  | .vpmaxswVex128 _ => [.avx]
  | .vpmaxswVex128Short _ => [.avx]
  | .vpmaxsdVex128 _ => [.avx]
  | .vpmaxsbVex256 _ => [.avx2]
  | .vpmaxswVex256 _ => [.avx2]
  | .vpmaxswVex256Short _ => [.avx2]
  | .vpmaxsdVex256 _ => [.avx2]
  | .vpmaxsbEvex128 _ => [.avx512vl, .avx512bw]
  | .vpmaxsbEvex256 _ => [.avx512vl, .avx512bw]
  | .vpmaxsbEvex512 _ => [.avx512bw]
  | .vpmaxswEvex128 _ => [.avx512vl, .avx512bw]
  | .vpmaxswEvex256 _ => [.avx512vl, .avx512bw]
  | .vpmaxswEvex512 _ => [.avx512bw]
  | .vpmaxsdEvex128 _ => [.avx512vl, .avx512f]
  | .vpmaxsdEvex256 _ => [.avx512vl, .avx512f]
  | .vpmaxsdEvex512 _ => [.avx512f]
  | .vpmaxsqEvex128 _ => [.avx512vl, .avx512f]
  | .vpmaxsqEvex256 _ => [.avx512vl, .avx512f]
  | .vpmaxsqEvex512 _ => [.avx512f]

/-- The layout of a form and its operands, without the row: what prefixes, checks and operands depend on. -/
inductive Shape where
  | mmx (o : MmxOperands)
  | sse (o : SseOperands)
  | vex (o : VexOperands)
  | evex (broadcast : Bool) (o : EvexOperands)
  deriving DecidableEq, Repr

/-- The layout of each row (30_encoding R145; broadcast exists on rows 17 to 22, R131). -/
def shapeOf : Instr → Shape
  | .pmaxswMmx o => .mmx o
  | .pmaxsbXmm o => .sse o
  | .pmaxswXmm o => .sse o
  | .pmaxsdXmm o => .sse o
  | .vpmaxsbVex128 o => .vex o
  | .vpmaxswVex128 o => .vex o
  | .vpmaxswVex128Short o => .vex o
  | .vpmaxsdVex128 o => .vex o
  | .vpmaxsbVex256 o => .vex o
  | .vpmaxswVex256 o => .vex o
  | .vpmaxswVex256Short o => .vex o
  | .vpmaxsdVex256 o => .vex o
  | .vpmaxsbEvex128 o => .evex false o
  | .vpmaxsbEvex256 o => .evex false o
  | .vpmaxsbEvex512 o => .evex false o
  | .vpmaxswEvex128 o => .evex false o
  | .vpmaxswEvex256 o => .evex false o
  | .vpmaxswEvex512 o => .evex false o
  | .vpmaxsdEvex128 o => .evex true o
  | .vpmaxsdEvex256 o => .evex true o
  | .vpmaxsdEvex512 o => .evex true o
  | .vpmaxsqEvex128 o => .evex true o
  | .vpmaxsqEvex256 o => .evex true o
  | .vpmaxsqEvex512 o => .evex true o

/-- The vector length of a form in bits; row 1 has 64 (30_encoding R145). -/
def vectorLength : Instr → Nat
  | .pmaxswMmx _ => 64
  | .pmaxsbXmm _ => 128
  | .pmaxswXmm _ => 128
  | .pmaxsdXmm _ => 128
  | .vpmaxsbVex128 _ => 128
  | .vpmaxswVex128 _ => 128
  | .vpmaxswVex128Short _ => 128
  | .vpmaxsdVex128 _ => 128
  | .vpmaxsbVex256 _ => 256
  | .vpmaxswVex256 _ => 256
  | .vpmaxswVex256Short _ => 256
  | .vpmaxsdVex256 _ => 256
  | .vpmaxsbEvex128 _ => 128
  | .vpmaxsbEvex256 _ => 256
  | .vpmaxsbEvex512 _ => 512
  | .vpmaxswEvex128 _ => 128
  | .vpmaxswEvex256 _ => 256
  | .vpmaxswEvex512 _ => 512
  | .vpmaxsdEvex128 _ => 128
  | .vpmaxsdEvex256 _ => 256
  | .vpmaxsdEvex512 _ => 512
  | .vpmaxsqEvex128 _ => 128
  | .vpmaxsqEvex256 _ => 256
  | .vpmaxsqEvex512 _ => 512

/-- The element size of a form in bits (30_encoding R145). -/
def elementBits : Instr → Nat
  | .pmaxswMmx _ => 16
  | .pmaxsbXmm _ => 8
  | .pmaxswXmm _ => 16
  | .pmaxsdXmm _ => 32
  | .vpmaxsbVex128 _ => 8
  | .vpmaxswVex128 _ => 16
  | .vpmaxswVex128Short _ => 16
  | .vpmaxsdVex128 _ => 32
  | .vpmaxsbVex256 _ => 8
  | .vpmaxswVex256 _ => 16
  | .vpmaxswVex256Short _ => 16
  | .vpmaxsdVex256 _ => 32
  | .vpmaxsbEvex128 _ => 8
  | .vpmaxsbEvex256 _ => 8
  | .vpmaxsbEvex512 _ => 8
  | .vpmaxswEvex128 _ => 16
  | .vpmaxswEvex256 _ => 16
  | .vpmaxswEvex512 _ => 16
  | .vpmaxsdEvex128 _ => 32
  | .vpmaxsdEvex256 _ => 32
  | .vpmaxsdEvex512 _ => 32
  | .vpmaxsqEvex128 _ => 64
  | .vpmaxsqEvex256 _ => 64
  | .vpmaxsqEvex512 _ => 64

/-- The prefixes of an instruction. -/
def prefixesOf (i : Instr) : Prefixes :=
  match shapeOf i with
  | .mmx o => o.pfx
  | .sse o => o.pfx
  | .vex o => o.pfx
  | .evex _ o => o.pfx

/-- A state the model admits: one of the two modes of 60_exceptions R240, no single-step, no enabled breakpoint (R247),
`Features` closed under the implications of R213. -/
def Launchable (s : State) : Prop :=
  (s.mode = .long64 ∨ s.mode = .prot32) ∧ eflagsTf s = false ∧ breakpointOn s = false ∧ featuresClosed s.features = true

/-- Is the second source in memory (20_memory R82)? -/
def inMemory {n : Nat} : Source n → Bool
  | .reg _ => false
  | .mem _ => true

/-- An EVEX form with no reserved encoding (30_encoding R149, R150). -/
def EvexAllowed (broadcast : Bool) (o : EvexOperands) : Prop :=
  (o.b = true → broadcast = true ∧ inMemory o.src = true) ∧ (o.z = true → o.aaa ≠ 0)

/-- No condition of `#UD` holds (60_exceptions R212 to R217), and row 1 is not refused for `CR4.OSFXSR` (R225). -/
def Decodable (i : Instr) (s : State) : Prop :=
  hasAll s.features (rowFeatures i) = true ∧
    match shapeOf i with
    | .mmx o => o.pfx.lock = false ∧ cr0Em s = false ∧ cr4Osfxsr s = true
    | .sse o => o.pfx.lock = false ∧ cr0Em s = false ∧ cr4Osfxsr s = true
    | .vex o => illegalBeforeVex o.pfx = false ∧ cr4Osxsave s = true ∧ xcr0Avx s = true
    | .evex broadcast o =>
      illegalBeforeVex o.pfx = false ∧ EvexAllowed broadcast o ∧ cr4Osxsave s = true ∧ xcr0Avx s = true ∧
        xcr0Avx512 s = true

/-- A condition of `#UD` holds for the form (60_exceptions R212 to R217, 30_encoding R149, R150). -/
def Undefined (i : Instr) (s : State) : Prop :=
  hasAll s.features (rowFeatures i) = false ∨
    match shapeOf i with
    | .mmx o => o.pfx.lock = true ∨ cr0Em s = true
    | .sse o => o.pfx.lock = true ∨ cr0Em s = true ∨ cr4Osfxsr s = false
    | .vex o => illegalBeforeVex o.pfx = true ∨ cr4Osxsave s = false ∨ xcr0Avx s = false
    | .evex broadcast o =>
      illegalBeforeVex o.pfx = true ∨ ¬EvexAllowed broadcast o ∨ cr4Osxsave s = false ∨ xcr0Avx s = false ∨
        xcr0Avx512 s = false

/-- No check of 60_exceptions R230 stops the form: it goes on to read its operands. -/
def Ready (i : Instr) (s : State) : Prop :=
  Launchable s ∧ Decodable i s ∧ cr0Ts s = false ∧
    match shapeOf i with
    | .mmx _ => x87Pending s = false
    | _ => True

/-! ## Writes of other processors -/

/-- From the first two lists to the last two, writes of other processors became visible one by one: each was pending, no write
before it that it keeps the order with was, and none that it follows was (20_memory R101). -/
inductive Lands (ps ls : List OtherWrite) : List OtherWrite → List OtherWrite → Prop where
  | none : Lands ps ls ps ls
  | more {ps' ls' : List OtherWrite} {w : OtherWrite} (sofar : Lands ps ls ps' ls')
      (first : ps'.find? (fun u => u == w || keepsOrder u w) = some w) (causal : ∀ u ∈ ps', u.id ∉ w.after) :
      Lands ps ls (ps'.erase w) (w :: ls')

/-! ## The second source -/

/-- Byte `k` of a memory operand of `n` bytes is readable, is ordinary memory, and reads as `b`: the byte of the last write to
it that this read sees (20_memory R93, R101). -/
def ByteIs (s : State) (pl : Place) (n k : Nat) (b : Byte) : Prop :=
  badByte s pl k = false ∧ ∃ a, translate s (byteLinear s pl k) = .ok a ∧ regionAt s a = none ∧ dataByte s pl n a = b

/-- The operand of `w / 8` bytes is readable and holds the value `v`, little-endian (20_memory R84). -/
def OperandIs {w : Nat} (s : State) (pl : Place) (v : BitVec w) : Prop :=
  ∀ k < w / 8, ByteIs s pl (w / 8) k (v.extractLsb' (8 * k) 8)

/-- An offset lies outside a segment in `Prot32`: above the limit; for an expand-down segment at most the limit or above its
end; in no range, where the segment has just those (20_memory R98, D32). -/
def OutsideSegment (g : SegReg) (offset : Nat) : Prop :=
  match g.bounds with
  | .expandUp => g.limit.toNat < offset
  | .expandDown big => offset ≤ g.limit.toNat ∨ (if big then 0xFFFFFFFF else 0xFFFF) < offset
  | .ranges rs => ∀ r ∈ rs, offset < r.first ∨ r.last < offset

/-- A 16-byte boundary in a segment whose base is one (20_memory R88). -/
def Aligned16 (s : State) (pl : Place) : Prop :=
  (segmentBase s pl.seg).toNat % 16 = 0 ∧ (byteLinear s pl 0).toNat % 16 = 0

/-- An address that alignment checking would not stop (20_memory R91). -/
def AcceptedByAc (s : State) (pl : Place) (n : Nat) : Prop :=
  alignCheckEnabled s = true → (byteLinear s pl 0).toNat % n = 0

/-- The second source of row 1 is `b` (40 R171). -/
def MmxSourceIs (o : MmxOperands) (len : Nat) (s : State) (b : Qword) : Prop :=
  match o.src with
  | .reg r => b = readMm s r
  | .mem m => AcceptedByAc s (placeOf s o.pfx 1 len m) 8 ∧ OperandIs s (placeOf s o.pfx 1 len m) b

/-- The second source of a legacy form on vector registers is `b` (40 R172). -/
def SseSourceIs (o : SseOperands) (len : Nat) (s : State) (b : BitVec 128) : Prop :=
  match o.src with
  | .reg r => b = readV 128 s (vreg r)
  | .mem m => Aligned16 s (placeOf s o.pfx 1 len m) ∧ OperandIs s (placeOf s o.pfx 1 len m) b

/-- The second source of a VEX form is `b` (41 R180). -/
def VexSourceIs (VL : Nat) (o : VexOperands) (len : Nat) (s : State) (b : BitVec VL) : Prop :=
  match o.src with
  | .reg r => b = readV VL s (vreg r)
  | .mem m => AcceptedByAc s (placeOf s o.pfx 1 len m) (VL / 8) ∧ OperandIs s (placeOf s o.pfx 1 len m) b

/-- The second source of an EVEX form is `b`: a register, a full-width operand, or one element in every lane (42 R190,
43 R200, 20_memory R86). -/
def EvexSourceIs (N VL : Nat) (o : EvexOperands) (len : Nat) (s : State) (b : BitVec VL) : Prop :=
  match o.src with
  | .reg r => b = readV VL s r
  | .mem m =>
    if o.b = true then
      ∃ e : BitVec N, (∀ j < VL / N, lane N b j = e) ∧ AcceptedByAc s (placeOf s o.pfx (N / 8) len m) (N / 8) ∧
        OperandIs s (placeOf s o.pfx (N / 8) len m) e
    else
      AcceptedByAc s (placeOf s o.pfx (VL / 8) len m) (VL / 8) ∧ OperandIs s (placeOf s o.pfx (VL / 8) len m) b

/-! ## What a completed form leaves -/

/-- `pc` moved past an instruction of `len` bytes, in the mode's width (10_state R42). -/
def PcAdvanced (len : Nat) (s t : State) : Prop :=
  (s.mode = .long64 → t.pc = s.pc + BitVec.ofNat 64 len) ∧
    (s.mode = .prot32 → t.pc = low32 (s.pc + BitVec.ofNat 64 len))

/-- Everything that no form of the family changes: general registers, opmasks, the x87 control word and pointers (the pointers:
log 30), MXCSR, control and debug registers, flags, segments, mode, features, translation, regions, and every byte of memory.
Of the writes of other processors, some more may have become visible, in an order 20_memory R101 allows. -/
structure Frame (s t : State) : Prop where
  general : t.x = s.x
  opmask : t.k = s.k
  x87Control : t.x87Control = s.x87Control
  x87LastInstr : t.x87LastInstr = s.x87LastInstr
  x87LastData : t.x87LastData = s.x87LastData
  mxcsr : t.mxcsr = s.mxcsr
  cr0 : t.cr0 = s.cr0
  cr2 : t.cr2 = s.cr2
  cr4 : t.cr4 = s.cr4
  xcr0 : t.xcr0 = s.xcr0
  eflags : t.eflags = s.eflags
  segs : t.segs = s.segs
  dr : t.dr = s.dr
  dr7 : t.dr7 = s.dr7
  mode : t.mode = s.mode
  features : t.features = s.features
  pages : t.pages = s.pages
  regions : t.regions = s.regions
  history : Lands s.pending s.landed t.pending t.landed
  cells : t.mem = s.mem
  bytes : ∀ a, readByte t.mem a = readByte s.mem a

/-- What no form on vector registers changes besides: the x87 registers, their status and tag words, every other vector
register. XINUSE bits of the vector components may become set, no other changes (10_state R66 (c)). -/
structure VectorFrame (d : Fin 32) (s t : State) : Prop where
  frame : Frame s t
  x87 : t.r = s.r
  x87Status : t.x87Status = s.x87Status
  x87Tag : t.x87Tag = s.x87Tag
  others : ∀ i, i ≠ d → t.v.get i = s.v.get i
  xinuse : ∃ c, t.xinuse = s.xinuse ||| (c &&& vectorComponents)

/-- Row 1 completed with the second source `b` (40 R171, 10_state R62). -/
structure MmxAfter (o : MmxOperands) (len : Nat) (b : Qword) (s t : State) : Prop where
  lanes : ∀ j < 4, lane 16 (readMm t o.d) j = smax (lane 16 (readMm s o.d) j) (lane 16 b j)
  signExponent : (t.r.get o.d).extractLsb' 64 16 = 0xFFFF#16
  top : x87Top t = 0
  status : ∀ n, (n < 11 ∨ 13 < n) → t.x87Status.getLsbD n = s.x87Status.getLsbD n
  tag : t.x87Tag = 0
  others : ∀ i, i ≠ o.d → t.r.get i = s.r.get i
  vectors : t.v = s.v
  xinuse : t.xinuse = s.xinuse
  pc : PcAdvanced len s t
  frame : Frame s t

/-- A legacy form on vector registers completed with the second source `b` (40 R172 to R174, 10_state R56). -/
structure SseAfter (N : Nat) (o : SseOperands) (len : Nat) (b : BitVec 128) (s t : State) : Prop where
  lanes : ∀ j < 128 / N,
    lane N (readV 128 t (vreg o.d)) j = smax (lane N (readV 128 s (vreg o.d)) j) (lane N b j)
  kept : ∀ n, 128 ≤ n → (t.v.get (vreg o.d)).getLsbD n = (s.v.get (vreg o.d)).getLsbD n
  pc : PcAdvanced len s t
  frame : VectorFrame (vreg o.d) s t

/-- A VEX form completed with the second source `b` (41 R181 to R186, 10_state R57). -/
structure VexAfter (N VL : Nat) (o : VexOperands) (len : Nat) (b : BitVec VL) (s t : State) : Prop where
  lanes : ∀ j < VL / N,
    lane N (readV VL t (vreg o.d)) j = smax (lane N (readV VL s (vreg o.s1)) j) (lane N b j)
  zeroed : ∀ n, VL ≤ n → (t.v.get (vreg o.d)).getLsbD n = false
  pc : PcAdvanced len s t
  frame : VectorFrame (vreg o.d) s t

/-- An EVEX form completed with the second source `b` (42 R190, 43 R200, 00_scope R21, 10_state R58). -/
structure EvexAfter (N VL : Nat) (o : EvexOperands) (len : Nat) (b : BitVec VL) (s t : State) : Prop where
  lanes : ∀ j < VL / N,
    lane N (readV VL t o.d) j =
      if o.aaa = 0 ∨ (s.k.get o.aaa).getLsbD j = true then smax (lane N (readV VL s o.s1) j) (lane N b j)
      else if o.z = true then 0
      else lane N (readV VL s o.d) j
  zeroed : ∀ n, VL ≤ n → (t.v.get o.d).getLsbD n = false
  pc : PcAdvanced len s t
  frame : VectorFrame o.d s t

/-- The form `mk` of row 1's operands completes with the effect of R171. -/
def CompletesMmx (mk : MmxOperands → Instr) : Prop :=
  ∀ (o : MmxOperands) (s : State) (b : Qword), Ready (mk o) s → MmxSourceIs o (mk o).length s b →
    ∃ t, exec (mk o) s = .next t ∧ MmxAfter o (mk o).length b s t

/-- The legacy form `mk` on `N`-bit elements of a vector register completes with the effect of its rule. -/
def CompletesSse (N : Nat) (mk : SseOperands → Instr) : Prop :=
  ∀ (o : SseOperands) (s : State) (b : BitVec 128), Ready (mk o) s → SseSourceIs o (mk o).length s b →
    ∃ t, exec (mk o) s = .next t ∧ SseAfter N o (mk o).length b s t

/-- The VEX form `mk` on `N`-bit elements of `VL` bits completes with the effect of its rule. -/
def CompletesVex (N VL : Nat) (mk : VexOperands → Instr) : Prop :=
  ∀ (o : VexOperands) (s : State) (b : BitVec VL), Ready (mk o) s → VexSourceIs VL o (mk o).length s b →
    ∃ t, exec (mk o) s = .next t ∧ VexAfter N VL o (mk o).length b s t

/-- The EVEX form `mk` on `N`-bit elements of `VL` bits completes with the effect of its rule. -/
def CompletesEvex (N VL : Nat) (mk : EvexOperands → Instr) : Prop :=
  ∀ (o : EvexOperands) (s : State) (b : BitVec VL), Ready (mk o) s → EvexSourceIs N VL o (mk o).length s b →
    ∃ t, exec (mk o) s = .next t ∧ EvexAfter N VL o (mk o).length b s t

/-! ## The memory operand of an instruction -/

/-- A memory operand: where it is and how many bytes it has. -/
structure Operand where
  place : Place
  bytes : Nat
  deriving DecidableEq, Repr

/-- The memory operand of a form whose one-byte displacement is scaled by `n`, if its second source is in memory. -/
def operandFrom {w : Nat} (s : State) (p : Prefixes) (n len bytes : Nat) : Source w → Option Operand
  | .reg _ => none
  | .mem m => some { place := placeOf s p n len m, bytes := bytes }

/-- The memory operand of an instruction (20_memory R81, R82; 30_encoding R139, R140). -/
def operandOf (i : Instr) (s : State) : Option Operand :=
  match shapeOf i with
  | .mmx o => operandFrom s o.pfx 1 i.length 8 o.src
  | .sse o => operandFrom s o.pfx 1 i.length 16 o.src
  | .vex o => operandFrom s o.pfx 1 i.length (vectorLength i / 8) o.src
  | .evex _ o =>
    if o.b then operandFrom s o.pfx (elementBits i / 8) i.length (elementBits i / 8) o.src
    else operandFrom s o.pfx (vectorLength i / 8) i.length (vectorLength i / 8) o.src

/-- Byte `k` of the memory operand belongs to an element that no writemask masks off; of a broadcast element, that some lane
uses it (20_memory R94). -/
def byteUsed (i : Instr) (s : State) (k : Nat) : Bool :=
  match shapeOf i with
  | .evex _ o =>
    o.aaa == 0 ||
      (if o.b then (List.range (vectorLength i / elementBits i)).any (fun j => (s.k.get o.aaa).getLsbD j)
        else (s.k.get o.aaa).getLsbD (k / (elementBits i / 8)))
  | _ => true

/-- The alignment condition of the form's memory operand is met (20_memory R88 to R91). -/
def AlignmentMet (i : Instr) (s : State) (op : Operand) : Prop :=
  match shapeOf i with
  | .mmx _ => AcceptedByAc s op.place 8
  | .sse _ => Aligned16 s op.place
  | .vex _ => AcceptedByAc s op.place op.bytes
  | .evex _ _ => AcceptedByAc s op.place op.bytes

/-- The bytes of an EVEX form's memory operand that belong to elements in use are readable ordinary memory and hold those of the
second source `b` (of its one element, where it is broadcast). -/
def UsedBytesHold (N VL : Nat) (i : Instr) (o : EvexOperands) (s : State) (op : Operand) (b : BitVec VL) : Prop :=
  if o.b = true then
    ∃ e : BitVec N, (∀ j < VL / N, lane N b j = e) ∧
      ∀ k < op.bytes, byteUsed i s k = true → ByteIs s op.place op.bytes k (e.extractLsb' (8 * k) 8)
  else ∀ k < op.bytes, byteUsed i s k = true → ByteIs s op.place op.bytes k (b.extractLsb' (8 * k) 8)

/-- The EVEX form `mk` with a memory operand whose elements in use can be read (20_memory R94): it completes with the effect of
its rule, or it reports a fault of a byte that no element in use has. -/
def MaskedOffTwoWay (N VL : Nat) (mk : EvexOperands → Instr) : Prop :=
  ∀ (o : EvexOperands) (s : State) (b : BitVec VL) (op : Operand), Ready (mk o) s → operandOf (mk o) s = some op →
    AlignmentMet (mk o) s op → (∀ k < op.bytes, byteRegion s op.place k = none) →
    UsedBytesHold N VL (mk o) o s op b →
    (∃ t, exec (mk o) s = .next t ∧ EvexAfter N VL o (mk o).length b s t) ∨
      (exec (mk o) s = .fault (badAddressFault op.place.seg) ∧
        ∃ k < op.bytes, byteUsed (mk o) s k = false ∧ badByte s op.place k = true) ∨
      (∃ k < op.bytes, ∃ code, byteUsed (mk o) s k = false ∧ translate s (byteLinear s op.place k) = .error code ∧
        exec (mk o) s = .fault (.pageFault code (byteLinear s op.place k)))

/-! ## Bytes before an opcode -/

/-- The segment-override bytes (30_encoding R111). -/
def overrideBytes : List Byte := [0x26, 0x2E, 0x36, 0x3E, 0x64, 0x65]

/-- The legacy prefix bytes (30_encoding R111). -/
def prefixBytes : List Byte := [0xF0, 0xF2, 0xF3, 0x66, 0x67] ++ overrideBytes

/-- The legacy prefix bytes that a mode does not have refused: `Long64` has no `ES`, `CS`, `SS`, `DS` override (30_encoding
R137), `Prot32` no `67` (R138). -/
def admittedPrefixBytes : Mode → List Byte
  | .long64 => [0xF0, 0xF2, 0xF3, 0x66, 0x67, 0x64, 0x65]
  | _ => [0xF0, 0xF2, 0xF3, 0x66] ++ overrideBytes

/-- Legacy prefixes in any order, none refused: each at most once, at most one segment override (30_encoding R111, R137,
R138). -/
def AdmittedPrefixes (mode : Mode) (pre : List Byte) : Prop :=
  (∀ b ∈ pre, b ∈ admittedPrefixBytes mode) ∧ pre.Nodup ∧ (pre.filter (fun b => overrideBytes.contains b)).length ≤ 1

/-- No REX byte, or any one of the sixteen (30_encoding R113). -/
def OptionalRex (rx : List Byte) : Prop :=
  rx = [] ∨ ∃ wrxb : BitVec 4, rx = [4#4 ++ wrxb]

/-- The bytes of ModRM, SIB and displacement, by 30_encoding R147 step 5, of an instruction whose ModRM byte is the first of
these. -/
def modRMLength : List Byte → Nat
  | [] => 1
  | m :: rest =>
    let mod := m.extractLsb' 6 2
    let rm := m.extractLsb' 0 3
    let sib := mod ≠ 3 ∧ rm = 4
    1 + (if sib then 1 else 0) +
      (if mod = 2 ∨ (mod = 0 ∧ rm = 5) ∨ (mod = 0 ∧ rm = 4 ∧ (rest.headD 0).extractLsb' 0 3 = 5) then 4
        else if mod = 1 then 1 else 0)

/-! ## The invariant -/

/-- What every state of a machine that the spec describes has, and every step keeps: memory in canonical form, no vector bit
above `MAXVL` (00_scope R6), no `V[16..31]` without 512-bit registers (10_state R59), a 32-bit `pc` in `Prot32` (R41),
`XCR0[0] = 1` (R47). -/
structure Inv (s : State) : Prop where
  memory : Memory.wf s.mem = true
  vectorBits : ∀ i n, maxvl s.features ≤ n → (s.v.get i).getLsbD n = false
  highVectors : maxvl s.features < 512 → ∀ i : Fin 32, 16 ≤ i.val → s.v.get i = 0
  narrowPc : s.mode = .prot32 → s.pc.toNat < 2 ^ 32
  x87Enabled : s.xcr0.getLsbD 0 = true

/-! ## Outcomes -/

/-- An outcome with its next state changed by `f`. -/
def mapNext (f : State → State) :
    Host.Outcome State Fault Refusal → Host.Outcome State Fault Refusal
  | .next t => .next (f t)
  | .fault e => .fault e
  | .refused r => .refused r

end Sys2Proof.Safety
end

