-- ==== Sys2Proof/Certificates/Slice0/Obligations.lean ====
section
/-! DEFINITION. The statements for the provers. OBLIGATIONS.json says of each which rules it rests on. -/

section

open Sys2Proof Sys2Proof.Machine Sys2Proof.Safety

/-- For every width N > 0 and N-bit a, b: toInt_N(a) is unsigned(a) - 2^N * a[N-1] and lies in -2^(N-1) .. 2^(N-1)-1; smax(a, b)
is a if toInt(a) > toInt(b) and b otherwise. (R16, R17) -/
def Obligations.SmaxIsSignedMaximum : Prop :=
  ∀ (N : Nat) (a b : BitVec N), 0 < N →
    (a.toInt = (a.toNat : Int) - 2 ^ N * (a.msb.toNat : Int) ∧ -(2 ^ (N - 1) : Int) ≤ a.toInt ∧
      a.toInt ≤ (2 ^ (N - 1) : Int) - 1) ∧
    (a.toInt > b.toInt → smax a b = a) ∧ (¬a.toInt > b.toInt → smax a b = b)

/-- For every N > 0: smax(a, b) is bit for bit a or b; it is commutative, idempotent and associative; 2^(N-1) is its identity
and 2^(N-1)-1 absorbs; a value with the top bit set is less than every value with the top bit clear, so smax picks the
latter (with the two 8-bit examples); its integer value is the maximum of the two. (R18) -/
def Obligations.SmaxLaws : Prop :=
  (∀ (N : Nat) (a b c : BitVec N), 0 < N →
    (smax a b = a ∨ smax a b = b) ∧
    smax a b = smax b a ∧
    smax a a = a ∧
    smax (BitVec.intMin N) b = b ∧
    smax (BitVec.intMax N) b = BitVec.intMax N ∧
    (a.msb = true → b.msb = false → a.toInt < b.toInt ∧ smax a b = b) ∧
    smax (smax a b) c = smax a (smax b c) ∧
    (smax a b).toInt = max a.toInt b.toInt) ∧
  smax 0xFF#8 0x00#8 = 0x00#8 ∧ smax 0x80#8 0x7F#8 = 0x7F#8

/-- For N in 8, 16, 32, 64 and VL in 64, 128, 256, 512: a VL-bit r equals PMAXS(N, VL, a, b) exactly when lane j of r is smax_N
of lane j of a and lane j of b for every j in 0 .. VL/N - 1. (R19) -/
def Obligations.PmaxsLaneByLane : Prop :=
  ∀ N ∈ [8, 16, 32, 64], ∀ VL ∈ [64, 128, 256, 512], ∀ a b r : BitVec VL,
    r = pmaxs N VL a b ↔ ∀ j < VL / N, lane N r j = smax (lane N a j) (lane N b j)

/-- For N in 8, 16, 32, 64 and VL in 64, 128, 256, 512: a VL-bit r equals BCAST(N, VL, e) exactly when every N-bit lane of r is
e. (R20) -/
def Obligations.BcastEveryLane : Prop :=
  ∀ N ∈ [8, 16, 32, 64], ∀ VL ∈ [64, 128, 256, 512], ∀ (e : BitVec N) (r : BitVec VL),
    r = bcast N VL e ↔ ∀ j < VL / N, lane N r j = e

/-- For N in 8, 16, 32, 64 and VL in 128, 256, 512: lane j of MASKED is the result's lane if no writemask is named or k[j] = 1,
else the old lane if z = 0, else 0; and two masks that agree below KL = VL/N give the same value. (R21) -/
def Obligations.MaskedLaneByLane : Prop :=
  ∀ N ∈ [8, 16, 32, 64], ∀ VL ∈ [128, 256, 512], ∀ (r old : BitVec VL) (k : Qword) (masked z : Bool),
    (∀ j < VL / N, lane N (maskMerge N VL r old k masked z) j =
      if masked = false ∨ k.getLsbD j = true then lane N r j else if z = false then lane N old j else 0) ∧
    ∀ k' : Qword, (∀ j < VL / N, k.getLsbD j = k'.getLsbD j) →
      maskMerge N VL r old k masked z = maskMerge N VL r old k' masked z

/-- For the element sizes and vector lengths of the family: max(a, b) has smax of the lanes everywhere; mask_max(s, k, a, b) has
it where k[j] = 1 and the lane of s elsewhere; maskz_max(k, a, b) has it where k[j] = 1 and 0 elsewhere. (R164, R19, R21) -/
def Obligations.IntrinsicsLaneByLane : Prop :=
  ∀ N ∈ [8, 16, 32, 64], ∀ VL ∈ [64, 128, 256, 512], ∀ (s a b : BitVec VL) (k : Qword), ∀ j < VL / N,
    lane N (intrinsicMax N VL a b) j = smax (lane N a j) (lane N b j) ∧
    lane N (intrinsicMaskMax N VL s k a b) j =
      (if k.getLsbD j = true then smax (lane N a j) (lane N b j) else lane N s j) ∧
    lane N (intrinsicMaskzMax N VL k a b) j =
      (if k.getLsbD j = true then smax (lane N a j) (lane N b j) else 0)

/-- PMAXSW mm1, mm2/m64: in every state where no check stops it and its second source (register or readable memory) is b, exec
answers a next state in which the four words of MM[d] are the maxima, TOS is 0, the tag word is 0000H, bits 79:64 of R[d]
are FFFFH, every other x87 register, the control word and the other status bits are unchanged, pc is past the instruction,
and every other register and every byte of memory is unchanged. A fault leaves R, the status word and the tag word as they
were. (That XINUSE, too, is unchanged is the model's choice, log 12; that the alignment asked of the operand under alignment
checking is that of its linear address is the model's reading, log 19.) (That the x87 last-instruction and last-data
pointers are among the registers left unchanged is the model's, log 30.) (R62, R171, R91, R66) -/
def Obligations.MmxFormCompletes : Prop :=
  CompletesMmx .pmaxswMmx ∧
  ∀ o s f, exec (.pmaxswMmx o) s = .fault f →
    (stateAtFault f s).r = s.r ∧ (stateAtFault f s).x87Status = s.x87Status ∧ (stateAtFault f s).x87Tag = s.x87Tag

/-- PMAXSB, PMAXSW, PMAXSD xmm1, xmm2/m128: in every state where no check stops the form and its second source (register, or
readable memory on a 16-byte boundary) is b, exec answers a next state in which each lane of V[d][127:0] is the signed
maximum, every bit of V[d] from 128 up is as before, pc is past the instruction, XINUSE has at most gained vector-component
bits, and every other register and every byte of memory is unchanged. (That the x87 last-instruction and last-data pointers
are among the registers left unchanged is the model's, log 30.) (Which XINUSE bits those are is the model's reading of R66,
log 12.) (R56, R66, R88, R172, R173, R174) -/
def Obligations.LegacySseFormsComplete : Prop :=
  CompletesSse 8 .pmaxsbXmm ∧ CompletesSse 16 .pmaxswXmm ∧ CompletesSse 32 .pmaxsdXmm

/-- VPMAXSB, VPMAXSW, VPMAXSD at 128 and 256 bits: in every state where no check stops the form and its second source (register,
or readable memory at any address that alignment checking accepts) is b, exec answers a next state in which each lane of
V[d][VL-1:0] is the signed maximum of the first source and b, every bit of V[d] from VL up is 0, pc is past the instruction,
XINUSE has at most gained vector-component bits, and every other register and every byte of memory is unchanged. (That the
alignment asked of a memory operand under alignment checking is that of its linear address is the model's reading, log 19.)
(That the x87 last-instruction and last-data pointers are among the registers left unchanged is the model's, log 30.) (Which
XINUSE bits those are: log 12.) (R57, R181, R182, R183, R184, R185, R186, R66, R89, R91) -/
def Obligations.VexFormsComplete : Prop :=
  CompletesVex 8 128 .vpmaxsbVex128 ∧ CompletesVex 16 128 .vpmaxswVex128 ∧ CompletesVex 16 128 .vpmaxswVex128Short ∧
  CompletesVex 32 128 .vpmaxsdVex128 ∧ CompletesVex 8 256 .vpmaxsbVex256 ∧ CompletesVex 16 256 .vpmaxswVex256 ∧
  CompletesVex 16 256 .vpmaxswVex256Short ∧ CompletesVex 32 256 .vpmaxsdVex256

/-- VPMAXSB and VPMAXSW EVEX at 128, 256, 512 bits: in every state where no check stops the form and its second source is b,
exec answers a next state in which lane j of V[d][VL-1:0] is the signed maximum where aaa = 0 or K[aaa][j] = 1, else 0 (z =
1) or the old lane (z = 0), every bit from VL up is 0, pc is past the instruction, XINUSE has at most gained vector-
component bits, and every other register and every byte of memory is unchanged. (That the alignment asked of a memory
operand under alignment checking is that of its linear address is the model's reading, log 19.) (That the x87 last-
instruction and last-data pointers are among the registers left unchanged is the model's, log 30.) (Which XINUSE bits those
are: log 12.) (R190, R191, R192, R193, R194, R195, R196, R66) -/
def Obligations.EvexByteWordFormsComplete : Prop :=
  CompletesEvex 8 128 .vpmaxsbEvex128 ∧ CompletesEvex 8 256 .vpmaxsbEvex256 ∧ CompletesEvex 8 512 .vpmaxsbEvex512 ∧
  CompletesEvex 16 128 .vpmaxswEvex128 ∧ CompletesEvex 16 256 .vpmaxswEvex256 ∧ CompletesEvex 16 512 .vpmaxswEvex512

/-- VPMAXSD and VPMAXSQ EVEX at 128, 256, 512 bits: as rows 11 to 16, where the second source may also be one 4- or 8-byte
memory element that stands in every lane (EVEX.b = 1). (That the alignment asked of a memory operand under alignment
checking is that of its linear address is the model's reading, log 19.) (That the x87 last-instruction and last-data
pointers are among the registers left unchanged is the model's, log 30.) (Which XINUSE bits may be set: log 12.) (R200,
R201, R202, R203, R204, R205, R206, R66) -/
def Obligations.EvexDwordQwordFormsComplete : Prop :=
  CompletesEvex 32 128 .vpmaxsdEvex128 ∧ CompletesEvex 32 256 .vpmaxsdEvex256 ∧ CompletesEvex 32 512 .vpmaxsdEvex512 ∧
  CompletesEvex 64 128 .vpmaxsqEvex128 ∧ CompletesEvex 64 256 .vpmaxsqEvex256 ∧ CompletesEvex 64 512 .vpmaxsqEvex512

/-- Whenever an EVEX form answers a next state, V[d][VL-1:0] is MASKED of some maxima PMAXS(N, VL, first source, b) over the old
destination by K[aaa], and every bit of V[d] from VL up is 0, with no condition on the mask. (R58) -/
def Obligations.EvexWritesWholeRegister : Prop :=
  ∀ (i : Instr) (broadcast : Bool) (o : EvexOperands) (s t : State), shapeOf i = .evex broadcast o → exec i s = .next t →
    (∃ b : BitVec (vectorLength i),
      readV (vectorLength i) t o.d =
        maskMerge (elementBits i) (vectorLength i)
          (pmaxs (elementBits i) (vectorLength i) (readV (vectorLength i) s o.s1) b)
          (readV (vectorLength i) s o.d) (s.k.get o.aaa) (decide (o.aaa ≠ 0)) o.z) ∧
    ∀ n, vectorLength i ≤ n → (t.v.get o.d).getLsbD n = false

/-- Whenever any instruction answers a next state: every byte of memory, the general registers, the opmasks, EFLAGS, MXCSR, the
x87 control word, the control, debug and segment registers, the mode, the features and the translation data are unchanged;
the destination is the register that ModRM.reg names, since every other vector register, and for rows 2 to 22 every x87
register, is unchanged too. (Of the writes of other processors, which State holds beside memory, some more may have become
visible, in an order R101 allows: log 22.) (That the x87 last-instruction and last-data pointers are among the registers
left unchanged is the model's, log 30.) (R83, R40, R43, R44, R45, R47, R49, R50, R62, R65, R101) -/
def Obligations.EveryFormKeepsTheRest : Prop :=
  ∀ (i : Instr) (s t : State), exec i s = .next t →
    Frame s t ∧
    match shapeOf i with
    | .mmx o => t.v = s.v ∧ ∀ r, r ≠ o.d → t.r.get r = s.r.get r
    | .sse o => t.r = s.r ∧ ∀ r, r ≠ vreg o.d → t.v.get r = s.v.get r
    | .vex o => t.r = s.r ∧ ∀ r, r ≠ vreg o.d → t.v.get r = s.v.get r
    | .evex _ o => t.r = s.r ∧ ∀ r, r ≠ o.d → t.v.get r = s.v.get r

/-- Whenever an instruction of length len answers a next state, pc becomes pc + len modulo 2^64 in Long64 and modulo 2^32 in
Prot32; when it answers a fault, the state the fault leaves has the pc it had. (R42) -/
def Obligations.PcAdvancesByLength : Prop :=
  ∀ (i : Instr) (s : State),
    (∀ t, exec i s = .next t → PcAdvanced i.length s t) ∧
    (∀ f, exec i s = .fault f → (stateAtFault f s).pc = s.pc)

/-- If two memories agree on every byte of the instruction's memory operand (8, 16, 32 or 64 bytes, or one element of 4 or 8
bytes for a broadcast; none when the second source is a register), then the outcome is the same but for memory itself, which
each run keeps. (The writes of other processors are the same on both sides: they stand in State.pending and State.landed.)
(R81, R82, R86, R95) -/
def Obligations.MemoryReadOnlyAtOperand : Prop :=
  ∀ (i : Instr) (s : State) (m : Memory),
    (∀ op, operandOf i s = some op → ∀ k < op.bytes, ∀ a, bytePhysical s op.place k = some a →
      readByte m a = readByte s.mem a) →
    exec i { s with mem := m } = mapNext (fun t => { t with mem := m }) (exec i s)

/-- If an EFLAGS value agrees with the state's on bit 18 (AC) and bit 8 (TF), replacing the register changes no outcome, and the
replaced value is what the next state holds: no status flag is read and none is written. (That TF is bit 8 is the model's
presumption, log 17.) (R43, R48, R247) -/
def Obligations.EflagsReadOnlyForAlignment : Prop :=
  ∀ (i : Instr) (s : State) (e : BitVec 32), e.getLsbD 18 = s.eflags.getLsbD 18 → e.getLsbD 8 = s.eflags.getLsbD 8 →
    exec i { s with eflags := e } = mapNext (fun t => { t with eflags := e }) (exec i s)

/-- Replacing MXCSR, the x87 control word, the x87 last-instruction and last-data pointers, CR2 and DR0 to DR3 by any values
leaves every outcome the same, and the next state holds the replaced values. (That a completed form leaves the x87 last-
instruction and last-data pointers as they were is the model's, log 30.) (R44, R227, R228, R247, R220, R62) -/
def Obligations.MxcsrAndX87ControlNeverRead : Prop :=
  ∀ (i : Instr) (s : State) (w : BitVec 32) (c : BitVec 16) (p q : X87Pointer) (a : Qword)
    (d : Vector Qword 4),
    exec i { s with mxcsr := w, x87Control := c, x87LastInstr := p, x87LastData := q, cr2 := a, dr := d } =
      mapNext (fun t =>
        { t with mxcsr := w, x87Control := c, x87LastInstr := p, x87LastData := q, cr2 := a, dr := d }) (exec i s)

/-- If an EVEX form names no writemask (aaa = 000b), or two opmask files agree on bits KL-1:0 of K[aaa], the outcome is the same
but for the opmask file itself; every other form reads no opmask at all. (R21, R64, R65) -/
def Obligations.OpmaskReadOnlyBelowElementCount : Prop :=
  ∀ (i : Instr) (s : State) (k : Vector Qword 8),
    (∀ broadcast o, shapeOf i = .evex broadcast o → o.aaa ≠ 0 →
      ∀ j < vectorLength i / elementBits i, (k.get o.aaa).getLsbD j = (s.k.get o.aaa).getLsbD j) →
    exec i { s with k := k } = mapNext (fun t => { t with k := k }) (exec i s)

/-- For rows 1 to 4, replacing XCR0 by any value leaves the outcome the same, and the next state holds the replaced value. (R47) -/
def Obligations.LegacyFormsIgnoreXcr0 : Prop :=
  ∀ (i : Instr) (s : State) (x : Qword), (∃ o, shapeOf i = .mmx o) ∨ (∃ o, shapeOf i = .sse o) →
    exec i { s with xcr0 := x } = mapNext (fun t => { t with xcr0 := x }) (exec i s)

/-- In the states the model admits, exec answers #UD exactly when the row's features are not all present, or (row 1) LOCK or
CR0.EM = 1, or (rows 2 to 4) LOCK, CR0.EM = 1 or CR4.OSFXSR = 0, or (VEX) a forbidden prefix, CR4.OSXSAVE = 0 or XCR0[2:1]
not 11b, or (EVEX) those, XCR0[7:5] not 111b or a reserved encoding; in no other state is #UD answered. (R230, R212, R213,
R214, R215, R216, R217) -/
def Obligations.UndefinedOpcodeExactly : Prop :=
  ∀ (i : Instr) (s : State), exec i s = .fault .invalidOpcode ↔ Launchable s ∧ Undefined i s

/-- In an admitted state with CR0.EM = 1 rows 1 to 4 answer #UD. For rows 5 to 22, replacing CR0 by a value that differs in bit
2 alone changes no outcome. (R212) -/
def Obligations.UndefinedByCr0Em : Prop :=
  ∀ (i : Instr) (s : State),
    match shapeOf i with
    | .mmx _ => Launchable s → s.cr0.getLsbD 2 = true → exec i s = .fault .invalidOpcode
    | .sse _ => Launchable s → s.cr0.getLsbD 2 = true → exec i s = .fault .invalidOpcode
    | .vex _ => ∀ c : Qword, (∀ n, n ≠ 2 → c.getLsbD n = s.cr0.getLsbD n) →
        exec i { s with cr0 := c } = mapNext (fun t => { t with cr0 := c }) (exec i s)
    | .evex _ _ => ∀ c : Qword, (∀ n, n ≠ 2 → c.getLsbD n = s.cr0.getLsbD n) →
        exec i { s with cr0 := c } = mapNext (fun t => { t with cr0 := c }) (exec i s)

/-- In an admitted state with CR4.OSFXSR = 0 rows 2 to 4 answer #UD. For rows 5 to 22, replacing CR4 by a value that differs in
bit 9 alone changes no outcome. (Row 1 is the statement RowOneWithoutOsfxsr.) (R214) -/
def Obligations.UndefinedByCr4Osfxsr : Prop :=
  ∀ (i : Instr) (s : State),
    match shapeOf i with
    | .mmx _ => True
    | .sse _ => Launchable s → s.cr4.getLsbD 9 = false → exec i s = .fault .invalidOpcode
    | .vex _ => ∀ c : Qword, (∀ n, n ≠ 9 → c.getLsbD n = s.cr4.getLsbD n) →
        exec i { s with cr4 := c } = mapNext (fun t => { t with cr4 := c }) (exec i s)
    | .evex _ _ => ∀ c : Qword, (∀ n, n ≠ 9 → c.getLsbD n = s.cr4.getLsbD n) →
        exec i { s with cr4 := c } = mapNext (fun t => { t with cr4 := c }) (exec i s)

/-- In an admitted state: rows 5 to 10 answer #UD when CR4.OSXSAVE = 0 or XCR0[2:1] is not 11b; rows 11 to 22 when CR4.OSXSAVE =
0, XCR0[2:1] is not 11b or XCR0[7:5] is not 111b, at every vector length and with every register number. (R215) -/
def Obligations.UndefinedByXsaveState : Prop :=
  ∀ (i : Instr) (s : State), Launchable s →
    match shapeOf i with
    | .mmx _ => True
    | .sse _ => True
    | .vex _ =>
      s.cr4.getLsbD 18 = false ∨ s.xcr0.getLsbD 1 = false ∨ s.xcr0.getLsbD 2 = false →
        exec i s = .fault .invalidOpcode
    | .evex _ _ =>
      s.cr4.getLsbD 18 = false ∨ s.xcr0.getLsbD 1 = false ∨ s.xcr0.getLsbD 2 = false ∨ s.xcr0.getLsbD 5 = false ∨
        s.xcr0.getLsbD 6 = false ∨ s.xcr0.getLsbD 7 = false →
        exec i s = .fault .invalidOpcode

/-- In an admitted state every instruction whose row names an absent flag answers #UD. In a state that differs from an admitted
one only in that Features breaks an implication of the rule, every instruction is refused by name. (R213) -/
def Obligations.UndefinedByFeature : Prop :=
  ∀ (i : Instr) (s : State),
    (Launchable s → (∃ f ∈ rowFeatures i, hasFeature s.features f = false) → exec i s = .fault .invalidOpcode) ∧
    ((s.mode = .long64 ∨ s.mode = .prot32) → eflagsTf s = false → breakpointOn s = false →
      ((s.features.avx512bw = true ∧ s.features.avx512f = false) ∨
        (s.features.avx512vl = true ∧ s.features.avx512f = false) ∨
        (s.features.avx512f = true ∧ s.features.avx2 = false) ∨ (s.features.avx2 = true ∧ s.features.avx = false) ∨
        (s.features.avx = true ∧ s.features.sse41 = false) ∨ (s.features.sse41 = true ∧ s.features.sse2 = false) ∨
        (s.features.sse2 = true ∧ s.features.sse = false)) →
      exec i s = .refused .featuresNotClosed)

/-- In an admitted state: rows 11 to 16 with b = 1, whatever the operand, rows 17 to 22 with b = 1 and a register operand, and
every EVEX form with z = 1 and aaa = 000b answer #UD. (R149, R150) -/
def Obligations.ReservedEvexFormsUndefined : Prop :=
  ∀ (i : Instr) (broadcast : Bool) (o : EvexOperands) (s : State), shapeOf i = .evex broadcast o → Launchable s →
    (broadcast = false → o.b = true → exec i s = .fault .invalidOpcode) ∧
    (broadcast = true → o.b = true → (∃ r, o.src = .reg r) → exec i s = .fault .invalidOpcode) ∧
    (o.z = true → o.aaa = 0 → exec i s = .fault .invalidOpcode)

/-- In an admitted state every instruction with a LOCK prefix answers #UD, and so does every VEX and EVEX form with a 66, F2, F3
or REX prefix. (R217) -/
def Obligations.UndefinedByPrefix : Prop :=
  ∀ (i : Instr) (s : State), Launchable s →
    ((prefixesOf i).lock = true → exec i s = .fault .invalidOpcode) ∧
    ((∃ o, shapeOf i = .vex o) ∨ (∃ broadcast o, shapeOf i = .evex broadcast o) →
      (prefixesOf i).opsize = true ∨ (prefixesOf i).repne = true ∨ (prefixesOf i).rep = true ∨
        (prefixesOf i).rex = true →
      exec i s = .fault .invalidOpcode)

/-- In an admitted state, if the bytes at pc are legacy prefixes in any order, none that the decoder refuses (none twice, one
segment override at most, in Long64 no ES, CS, SS or DS override, in Prot32 no 67), in Long64 then any REX byte or none,
then 62 P0 P1 P2 and any opcode byte, with P0[3:2] not 00b, P1[2] = 0 or mm = 00b (and in Prot32 none of the bits that make
the bytes BOUND or that decision D17 refuses), the step answers #UD where the instruction, with the ModRM, SIB and
displacement bytes that R147 counts, ends within the bytes at pc; where it is longer than 15 bytes and 15 stand there, the
step refuses it as too long (R229, level 1). (That the refusals of prefixes and of D17 come before the #UD is the model's
order, log 24; how bytes are fetched, log 4.) (R111, R113, R127, R147, R148, R229) -/
def Obligations.ReservedEvexBitsFault : Prop :=
  ∀ (s : State) (pre rx : List Byte) (p0 p1 p2 op : Byte) (tail : List Byte), Launchable s →
    AdmittedPrefixes s.mode pre → OptionalRex rx → (s.mode = .prot32 → rx = []) →
    (s.mode = .prot32 → p0.extractLsb' 6 2 = 3 ∧ p0.getLsbD 5 = true ∧ p0.getLsbD 4 = true ∧ p1.getLsbD 6 = true ∧
      p2.getLsbD 3 = true) →
    (p0.extractLsb' 2 2 ≠ 0 ∨ p1.getLsbD 2 = false ∨ p0.extractLsb' 0 2 = 0) →
    fetchBytes s = pre ++ rx ++ [0x62, p0, p1, p2, op] ++ tail →
    (pre.length + rx.length + 5 + modRMLength tail ≤ (fetchBytes s).length → step s = .fault .invalidOpcode) ∧
    (15 < pre.length + rx.length + 5 + modRMLength tail → (fetchBytes s).length = 15 →
      step s = .refused (.undecodable .tooLong))

/-- In an admitted state, if the bytes at pc are legacy prefixes in any order, none that the decoder refuses (none twice, one
segment override at most, in Long64 no ES, CS, SS or DS override, in Prot32 no 67), in Long64 then any REX byte or none,
then 62 P0 P1 P2 opcode with the reserved bits right, pp = 01b, map and opcode byte of the family and L'L = 11b (and in
Prot32 none of the bits that make the bytes BOUND or that decision D17 refuses), the step answers #UD where the instruction,
with the ModRM, SIB and displacement bytes that R147 counts, ends within the bytes at pc; where it is longer than 15 bytes
and 15 stand there, the step refuses it as too long (R229, level 1). (That the refusals of prefixes and of D17 come before
the #UD is the model's order, log 24; how bytes are fetched, log 4.) (R111, R113, R127, R129, R147, R151, R229) -/
def Obligations.ReservedVectorLengthFaults : Prop :=
  ∀ (s : State) (pre rx : List Byte) (p0 p1 p2 op : Byte) (tail : List Byte), Launchable s →
    AdmittedPrefixes s.mode pre → OptionalRex rx → (s.mode = .prot32 → rx = []) →
    (s.mode = .prot32 → p0.extractLsb' 6 2 = 3 ∧ p0.getLsbD 5 = true ∧ p0.getLsbD 4 = true ∧ p1.getLsbD 6 = true ∧
      p2.getLsbD 3 = true) →
    p0.extractLsb' 2 2 = 0 → p1.getLsbD 2 = true → p1.extractLsb' 0 2 = 1 → p2.extractLsb' 5 2 = 3 →
    ((p0.extractLsb' 0 2 = 2 ∧ (op = 0x3C ∨ op = 0x3D)) ∨ (p0.extractLsb' 0 2 = 1 ∧ op = 0xEE)) →
    fetchBytes s = pre ++ rx ++ [0x62, p0, p1, p2, op] ++ tail →
    (pre.length + rx.length + 5 + modRMLength tail ≤ (fetchBytes s).length → step s = .fault .invalidOpcode) ∧
    (15 < pre.length + rx.length + 5 + modRMLength tail → (fetchBytes s).length = 15 →
      step s = .refused (.undecodable .tooLong))

/-- exec answers #NM exactly in the admitted states where no #UD condition holds (and row 1 is not refused for CR4.OSFXSR) and
CR0.TS = 1, whatever CR0.MP is; and an instruction that answers #UD answers it also with CR0.TS set. (R219 says every form:
that row 1 with CR4.OSFXSR = 0 is refused before #NM is R225 and the order of R230; that the launch states which R213, R240
and R247 refuse are refused before every fault is the model's order, log 26.) (R219, R225, R230, R213, R240, R247) -/
def Obligations.DeviceNotAvailableByTs : Prop :=
  ∀ (i : Instr) (s : State),
    (exec i s = .fault .deviceNotAvailable ↔ Launchable s ∧ Decodable i s ∧ s.cr0.getLsbD 3 = true) ∧
    (exec i s = .fault .invalidOpcode → exec i { s with cr0 := s.cr0 ||| 8 } = .fault .invalidOpcode)

/-- PMAXSW on MMX registers answers #MF exactly in the admitted states with no #UD condition, CR0.TS = 0, x87 status bit 7 set
and CR0.NE = 1, whatever its memory operand is; with CR0.NE = 0 it is refused by name exactly there; rows 2 to 22 never
answer #MF. The state #MF leaves keeps the x87 last-instruction and last-data pointers, which describe the earlier
instruction. (R220 says only that the state with CR0.NE = 0 and ES = 1 is refused: that #UD and #NM, and the refusal for
CR4.OSFXSR, come before that refusal is the model's order, log 26.) (R220, R228, R229, R230) -/
def Obligations.MathFaultByPendingException : Prop :=
  (∀ (o : MmxOperands) (s : State),
    (exec (.pmaxswMmx o) s = .fault .mathFault ↔
      Launchable s ∧ Decodable (.pmaxswMmx o) s ∧ cr0Ts s = false ∧ s.x87Status.getLsbD 7 = true ∧
        s.cr0.getLsbD 5 = true) ∧
    (exec (.pmaxswMmx o) s = .refused .externalMathError ↔
      Launchable s ∧ Decodable (.pmaxswMmx o) s ∧ cr0Ts s = false ∧ s.x87Status.getLsbD 7 = true ∧
        s.cr0.getLsbD 5 = false)) ∧
  (∀ (i : Instr) (s : State), (∀ o, i ≠ .pmaxswMmx o) → exec i s ≠ .fault .mathFault) ∧
  ∀ s : State, (stateAtFault .mathFault s).x87LastInstr = s.x87LastInstr ∧
    (stateAtFault .mathFault s).x87LastData = s.x87LastData

/-- The MMX form answers the refusal mmxWithoutOsfxsr exactly in the admitted states where no #UD condition holds and CR4.OSFXSR
= 0; no other form answers it. (The launch-state refusals come first, log 26.) (R225) -/
def Obligations.RowOneWithoutOsfxsr : Prop :=
  (∀ (o : MmxOperands) (s : State), exec (.pmaxswMmx o) s = .refused .mmxWithoutOsfxsr ↔
    Launchable s ∧ ¬Undefined (.pmaxswMmx o) s ∧ s.cr4.getLsbD 9 = false) ∧
  ∀ (i : Instr) (s : State), (∀ o, i ≠ .pmaxswMmx o) → exec i s ≠ .refused .mmxWithoutOsfxsr

/-- In Long64, where no check stops an instruction, if some byte of its memory operand that belongs to no masked-off element has
a linear address whose bits 63 : LinearBits-1 are not all equal (LinearBits = 57 with CR4.LA57 = 1, else 48), exec answers
#SS(0) when the segment is SS and #GP(0) otherwise, and the state the fault leaves is the state it had. (R88 and D8 refuse a
launch state in which rows 2 to 4 use a segment whose base is no multiple of 16, R91 and D10 an unaligned VEX or EVEX
operand under alignment checking, and R95 and D12 an operand on a device or on memory that is not write-back: that the bad
address comes before these refusals is the model's order, log 26.) (R97, R229, R88, R91, R95, 92_eei_decisions.md) -/
def Obligations.NonCanonicalOperandFaults : Prop :=
  ∀ (i : Instr) (s : State) (op : Operand) (k n : Nat), s.mode = .long64 → Ready i s → operandOf i s = some op →
    k < op.bytes → byteUsed i s k = true → (if s.cr4.getLsbD 12 = true then 57 else 48) - 1 ≤ n → n < 64 →
    (byteLinear s op.place k).getLsbD n ≠ (byteLinear s op.place k).getLsbD 63 →
    exec i s = .fault (if op.place.seg = .ss then .stackSegment else .generalProtection) ∧
    stateAtFault (if op.place.seg = .ss then .stackSegment else .generalProtection) s = s

/-- In Prot32, where no check stops an instruction, if some byte of its memory operand that belongs to no masked-off element has
an offset outside the segment (above the limit; at most the limit or above the end, in an expand-down one; in no range, in
one that has just these: log 18), or the segment is not readable or has a null selector (bits 15:2 zero, log 18), exec
answers #SS(0) when the segment is SS and #GP(0) otherwise. (R221 speaks of the SS limit alone: that a null or unreadable
SS, too, gives #SS(0) is 92_eei_decisions.md D32, read for such an SS as in log 18.) (R88 and D8 refuse a launch state in
which rows 2 to 4 use a segment whose base is no multiple of 16, R91 and D10 an unaligned VEX or EVEX operand under
alignment checking, and R95 and D12 an operand on a device or on memory that is not write-back: that the violation comes
before these refusals is the model's order, log 26.) (R98, R221, R222, R229, R88, R91, R95, 92_eei_decisions.md) -/
def Obligations.SegmentViolationFaults : Prop :=
  ∀ (i : Instr) (s : State) (op : Operand) (k : Nat), s.mode = .prot32 → Ready i s → operandOf i s = some op →
    k < op.bytes → byteUsed i s k = true →
    (OutsideSegment (segReg s op.place.seg) (byteOffset op.place k).toNat ∨
      (segReg s op.place.seg).readable = false ∨ (segReg s op.place.seg).selector.extractLsb' 2 14 = 0) →
    exec i s = .fault (if op.place.seg = .ss then .stackSegment else .generalProtection)

/-- Rows 2, 3, 4, where no check stops the form and no byte of its operand has a bad address: if the used segment's base is a
multiple of 16, the linear address is not and every byte has a translation, exec answers #GP(0) and nothing changes; if the
base is no multiple of 16, exec refuses by name. (R95 and D12 refuse a launch state that maps the operand onto a device or
onto memory that is not write-back: that #GP(0) comes before that refusal, and that the refusal of the base comes after the
bad addresses and before a page fault, is the model's order, log 26.) (R88, R95, R229, 92_eei_decisions.md) -/
def Obligations.MisalignedLegacyOperandFaults : Prop :=
  ∀ (i : Instr) (o : SseOperands) (s : State) (op : Operand), shapeOf i = .sse o → Ready i s →
    operandOf i s = some op → (∀ k < op.bytes, badByte s op.place k = false) →
    ((segmentBase s op.place.seg).toNat % 16 = 0 → (byteLinear s op.place 0).extractLsb' 0 4 ≠ 0 →
      (∀ k < op.bytes, ∃ a, translate s (byteLinear s op.place k) = .ok a) →
      exec i s = .fault .generalProtection ∧ stateAtFault .generalProtection s = s) ∧
    ((segmentBase s op.place.seg).toNat % 16 ≠ 0 → exec i s = .refused .unalignedSegmentBase)

/-- Where no check stops the form, no byte of its operand has a bad address, and CR0.AM = 1, EFLAGS.AC = 1, CPL = 3: row 1 at an
address that is no multiple of 8, with every byte translated, answers #AC(0); a VEX or EVEX form at an address that is no
multiple of the bytes it reads is refused by name. Rows 2 to 22 never answer #AC(0). (R91 and R224 say "the address": that
it is the linear address of the first byte is the model's reading, log 19; that the refusal comes before a page fault is its
order, log 26.) (That the fault and the refusal come before the refusal of an operand on a device, R95, is its order too,
log 26.) (R91, R224) -/
def Obligations.AlignmentCheckOnRowOne : Prop :=
  (∀ (i : Instr) (s : State) (op : Operand), Ready i s → operandOf i s = some op →
    (∀ k < op.bytes, badByte s op.place k = false) →
    s.cr0.getLsbD 18 = true → s.eflags.getLsbD 18 = true → s.segs.cs.selector.extractLsb' 0 2 = 3 →
    (byteLinear s op.place 0).toNat % op.bytes ≠ 0 →
    match shapeOf i with
    | .mmx _ => (∀ k < op.bytes, ∃ a, translate s (byteLinear s op.place k) = .ok a) →
        exec i s = .fault .alignmentCheck
    | .sse _ => True
    | .vex _ => exec i s = .refused .vectorAlignmentCheck
    | .evex _ _ => exec i s = .refused .vectorAlignmentCheck) ∧
  ∀ (i : Instr) (s : State), (∀ o, i ≠ .pmaxswMmx o) → exec i s ≠ .fault .alignmentCheck

/-- Where no check stops the instruction, no byte of its operand has a bad address and its alignment condition is met: if some
byte that belongs to no masked-off element has no translation, exec answers #PF with the error code of some operand byte
without translation and that byte's linear address, for every choice among several; the code has W/R = 0, I/D = 0 and U/S =
1 exactly at CPL 3. (The alignment condition of rows 1 and 5 to 22 is read on the linear address, log 19; the reported
address is that of the byte, log 16.) (R95 and D12 refuse a launch state that maps another byte of the operand onto a device
or onto memory that is not write-back: that the page fault comes before that refusal is the model's order, log 26.) (R98,
R223, R95) -/
def Obligations.PageFaultReportsOperandByte : Prop :=
  ∀ (i : Instr) (s : State) (op : Operand) (k : Nat), Ready i s → operandOf i s = some op → AlignmentMet i s op →
    (∀ j < op.bytes, badByte s op.place j = false) → k < op.bytes → byteUsed i s k = true →
    (∀ a, translate s (byteLinear s op.place k) ≠ .ok a) →
    ∃ j < op.bytes, ∃ code, translate s (byteLinear s op.place j) = .error code ∧
      exec i s = .fault (.pageFault code (byteLinear s op.place j)) ∧ code.getLsbD 1 = false ∧
      code.getLsbD 4 = false ∧ code.getLsbD 2 = decide (s.segs.cs.selector.extractLsb' 0 2 = 3)

/-- Row 1 under alignment checking off an 8-byte boundary, and rows 2 to 4 off a 16-byte boundary in a segment whose base is
one, with no bad address and some byte of the operand without translation: exec answers the alignment fault of the form or
the page fault of an operand byte, for every choice among them. (The alignment of row 1 is read on the linear address, log
19.) (R95 and D12 refuse a launch state that maps another byte of the operand onto a device or onto memory that is not
write-back: that the faults of level 6 come before that refusal is the model's order, log 26.) (R229, R95) -/
def Obligations.LevelSixReportsOneThatHolds : Prop :=
  ∀ (i : Instr) (s : State) (op : Operand), Ready i s → operandOf i s = some op →
    (∀ k < op.bytes, badByte s op.place k = false) →
    (∃ k < op.bytes, ∀ a, translate s (byteLinear s op.place k) ≠ .ok a) →
    ∀ f, (match shapeOf i with
      | .mmx _ => f = Fault.alignmentCheck ∧ ¬AcceptedByAc s op.place 8
      | .sse _ => f = Fault.generalProtection ∧ (segmentBase s op.place.seg).toNat % 16 = 0 ∧
          (byteLinear s op.place 0).toNat % 16 ≠ 0
      | .vex _ => False
      | .evex _ _ => False) →
    exec i s = .fault f ∨
      ∃ k < op.bytes, ∃ code, translate s (byteLinear s op.place k) = .error code ∧
        exec i s = .fault (.pageFault code (byteLinear s op.place k))

/-- For each of the twelve EVEX forms with a memory operand whose bytes in elements that are not masked off are readable and
read as those of b, where no byte of the operand, masked off or not, lies in a device or not-write-back region (such a byte
refuses the form, the model's choice for masked-off elements, log 3) and the alignment condition under alignment checking is
met (on the linear address, log 19), and whether or not the masked-off bytes can be read and whatever they read as: exec
either completes with the effect of the form's rule for b, or answers the bad-address fault or the page fault of a byte that
belongs to masked-off elements only. (That the x87 last-instruction and last-data pointers are among the registers left
unchanged is the model's, log 30.) (R94, R226) -/
def Obligations.MaskedOffFaultsTwoWay : Prop :=
  MaskedOffTwoWay 8 128 .vpmaxsbEvex128 ∧ MaskedOffTwoWay 8 256 .vpmaxsbEvex256 ∧ MaskedOffTwoWay 8 512 .vpmaxsbEvex512 ∧
  MaskedOffTwoWay 16 128 .vpmaxswEvex128 ∧ MaskedOffTwoWay 16 256 .vpmaxswEvex256 ∧
  MaskedOffTwoWay 16 512 .vpmaxswEvex512 ∧ MaskedOffTwoWay 32 128 .vpmaxsdEvex128 ∧
  MaskedOffTwoWay 32 256 .vpmaxsdEvex256 ∧ MaskedOffTwoWay 32 512 .vpmaxsdEvex512 ∧
  MaskedOffTwoWay 64 128 .vpmaxsqEvex128 ∧ MaskedOffTwoWay 64 256 .vpmaxsqEvex256 ∧
  MaskedOffTwoWay 64 512 .vpmaxsqEvex512

/-- Where no check stops the instruction, its operand is readable and its alignment condition is met, but some byte lies in a
device or not-write-back region, exec answers the refusal of a region that some byte lies in. That byte may belong to a
masked-off element: that it refuses the form then, too, is the model's choice, log 3. (That this refusal comes after every
fault is its order, log 26.) (R95, R244) -/
def Obligations.DeviceOperandRefused : Prop :=
  ∀ (i : Instr) (s : State) (op : Operand), Ready i s → operandOf i s = some op → AlignmentMet i s op →
    (∀ k < op.bytes, badByte s op.place k = false ∧ ∃ a, translate s (byteLinear s op.place k) = .ok a) →
    (∃ k < op.bytes, byteRegion s op.place k ≠ none) →
    ∃ k < op.bytes, ∃ r, byteRegion s op.place k = some r ∧ exec i s = .refused r

/-- In a mode other than Long64 and Prot32, every instruction and the step answer the refusal modeNotAdmitted; in one of the two
with EFLAGS.TF = 1, singleStep; with TF clear and a breakpoint enabled in DR7, breakpointEnabled. (The places of TF and of
the enables are the model's, log 17.) (R240, R247) -/
def Obligations.RefusedLaunchStates : Prop :=
  ∀ (i : Instr) (s : State),
    (s.mode ≠ .long64 → s.mode ≠ .prot32 →
      exec i s = .refused .modeNotAdmitted ∧ step s = .refused .modeNotAdmitted) ∧
    (s.mode = .long64 ∨ s.mode = .prot32 →
      (eflagsTf s = true → exec i s = .refused .singleStep ∧ step s = .refused .singleStep) ∧
      (eflagsTf s = false → breakpointOn s = true →
        exec i s = .refused .breakpointEnabled ∧ step s = .refused .breakpointEnabled))

/-- #UD 6, #NM 7, #SS 12, #GP 13, #PF 14, #MF 16, #AC 17; error code 0 for #SS, #GP, #AC, the page fault's code for #PF, none
for #UD, #NM, #MF. (R211, R228) -/
def Obligations.FaultVectorsAndCodes : Prop :=
  Fault.invalidOpcode.vector = 6 ∧ Fault.invalidOpcode.errorCode = none ∧
  Fault.deviceNotAvailable.vector = 7 ∧ Fault.deviceNotAvailable.errorCode = none ∧
  Fault.stackSegment.vector = 12 ∧ Fault.stackSegment.errorCode = some 0 ∧
  Fault.generalProtection.vector = 13 ∧ Fault.generalProtection.errorCode = some 0 ∧
  (∀ code a, (Fault.pageFault code a).vector = 14 ∧ (Fault.pageFault code a).errorCode = some code) ∧
  Fault.mathFault.vector = 16 ∧ Fault.mathFault.errorCode = none ∧
  Fault.alignmentCheck.vector = 17 ∧ Fault.alignmentCheck.errorCode = some 0

/-- The state a page fault leaves is the state before with CR2 set to the reported linear address; the state any other fault
leaves is the state before. (R228, R231) -/
def Obligations.FaultRecordsOnlyCr2 : Prop :=
  ∀ s : State,
    (∀ code a, stateAtFault (.pageFault code a) s = { s with cr2 := a }) ∧
    (∀ f, (∀ code a, f ≠ Fault.pageFault code a) → stateAtFault f s = s)

/-- In Long64 and Prot32, for every prefix set, instruction length and displacement scale N: the address size is 32 bits in
Prot32 and with a 67 prefix, else 64; the segment is the override's, else SS where a base register is used and is number 4
or 5, else DS; the effective address of a base form is (base + N * disp8) or (base + disp32) mod 2^asz, of a SIB form it
also adds index * 2^scale (0 without an index), of a SIB form without base it is index * 2^scale + disp32, of a RIP-relative
form (Long64) pc_next + disp32, of an absolute form disp32, with displacements read as signed integers and registers as
unsigned ones. (R134, R135, R136, R137, R138, R139, R140) -/
def Obligations.EffectiveAddressAsInteger : Prop :=
  ∀ (s : State) (p : Prefixes) (n len : Nat) (r i : Fin 16) (sc : Fin 4) (b : Byte) (d : BitVec 32),
    s.mode = .long64 ∨ s.mode = .prot32 →
    let asz : Int := if s.mode = .prot32 ∨ p.addrsize = true then 2 ^ 32 else 2 ^ 64
    let ea := fun m => ((placeOf s p n len m).ea.toNat : Int)
    let x := fun j => ((readX s j).toNat : Int)
    (ea (.base r .none) = x r % asz ∧
      ea (.base r (.disp8 b)) = (x r + n * b.toInt) % asz ∧
      ea (.base r (.disp32 d)) = (x r + d.toInt) % asz ∧
      ea (.sib sc none r .none) = x r % asz ∧
      ea (.sib sc none r (.disp8 b)) = (x r + n * b.toInt) % asz ∧
      ea (.sib sc none r (.disp32 d)) = (x r + d.toInt) % asz ∧
      ea (.sib sc (some i) r .none) = (x r + x i * 2 ^ sc.val) % asz ∧
      ea (.sib sc (some i) r (.disp8 b)) = (x r + x i * 2 ^ sc.val + n * b.toInt) % asz ∧
      ea (.sib sc (some i) r (.disp32 d)) = (x r + x i * 2 ^ sc.val + d.toInt) % asz ∧
      ea (.sibNoBase sc none d) = d.toInt % asz ∧
      ea (.sibNoBase sc (some i) d) = (x i * 2 ^ sc.val + d.toInt) % asz ∧
      (s.mode = .long64 → ea (.pcRelative d) = (s.pc.toNat + len + d.toInt) % asz) ∧
      ea (.absolute d) = d.toInt % asz) ∧
    ∀ m : MemOperand,
      ((placeOf s p n len m).narrow = true ↔ s.mode = .prot32 ∨ p.addrsize = true) ∧
      (∀ g, p.seg = some g → (placeOf s p n len m).seg = g) ∧
      (p.seg = none → (placeOf s p n len m).seg =
        match m with
        | .base q _ => if q.val = 4 ∨ q.val = 5 then .ss else .ds
        | .sib _ _ q _ => if q.val = 4 ∨ q.val = 5 then .ss else .ds
        | .sibNoBase _ _ _ => .ds
        | .pcRelative _ => .ds
        | .absolute _ => .ds)

/-- In Long64 byte k of an operand at effective address ea is at (base + (ea + k) mod 2^asz) mod 2^64, base being that of FS or
GS and 0 for the other four segments; in Prot32 it is at (base + (ea + k) mod 2^32) mod 2^32 with the segment's base. (R50,
R96, R99) -/
def Obligations.LinearAddressAsInteger : Prop :=
  ∀ (s : State) (pl : Place) (k : Nat),
    (s.mode = .long64 → (byteLinear s pl k).toNat =
      ((match pl.seg with
        | .fs => s.segs.fs.base.toNat
        | .gs => s.segs.gs.base.toNat
        | _ => 0) + (pl.ea.toNat + k) % (if pl.narrow then 2 ^ 32 else 2 ^ 64)) % 2 ^ 64) ∧
    (s.mode = .prot32 → pl.narrow = true → (byteLinear s pl k).toNat =
      ((segReg s pl.seg).base.toNat + (pl.ea.toNat + k) % 2 ^ 32) % 2 ^ 32)

/-- For every mode, every instruction well-formed in it (all 24 constructors, every register number, prefix set, memory shape,
displacement, mask, z, b and vector length the encodings admit) and every following bytes, the decoder reads from the
encoder's bytes exactly that instruction and leaves the following bytes. (R113, R118, R119, R124, R134, R147) -/
def Obligations.DecodeOfEncode : Prop :=
  ∀ (mode : Mode) (i : Instr) (rest : List Byte), i.wf mode = true → decode mode (encode i ++ rest) = .ok (i, rest)

/-- If the decoder reads an instruction from bytes, the instruction is well-formed in the mode (so in Prot32 it names only
registers 0 to 7 and has no REX), is at most 15 bytes long, and the bytes are exactly its length in bytes followed by the
rest. (R59, R110, R147) -/
def Obligations.DecodedIsWellFormedAndLong : Prop :=
  ∀ (mode : Mode) (bytes : List Byte) (i : Instr) (rest : List Byte), decode mode bytes = .ok (i, rest) →
    i.wf mode = true ∧ i.length ≤ 15 ∧ ∃ taken, bytes = taken ++ rest ∧ taken.length = i.length

/-- 0F EE C1, 66 0F 38 3D 10, C5 F1 EE CB, C4 E2 6D 3D 08, 62 F1 6D 4A EE 48 01 and 62 F2 6D D9 3D 08 decode to PMAXSW mm0, mm1;
PMAXSD xmm2, [rax]; VPMAXSW xmm1, xmm1, xmm3; VPMAXSD ymm1, ymm2, [rax]; VPMAXSW zmm1 {k2}, zmm2, [rax+64]; VPMAXSD zmm1
{k1}{z}, zmm2, dword [rax]{1to16}. (R145, 95_test_vectors.md) -/
def Obligations.KnownWordsDecode : Prop :=
  decode .long64 [0x0F, 0xEE, 0xC1] = .ok (.pmaxswMmx { pfx := noPrefixes, d := 0, src := .reg 1 }, []) ∧
  decode .long64 [0x66, 0x0F, 0x38, 0x3D, 0x10] =
    .ok (.pmaxsdXmm { pfx := { noPrefixes with opsize := true }, d := 2, src := .mem (.base 0 .none) }, []) ∧
  decode .long64 [0xC5, 0xF1, 0xEE, 0xCB] =
    .ok (.vpmaxswVex128Short { pfx := noPrefixes, d := 1, s1 := 1, src := .reg 3 }, []) ∧
  decode .long64 [0xC4, 0xE2, 0x6D, 0x3D, 0x08] =
    .ok (.vpmaxsdVex256 { pfx := noPrefixes, d := 1, s1 := 2, src := .mem (.base 0 .none) }, []) ∧
  decode .long64 [0x62, 0xF1, 0x6D, 0x4A, 0xEE, 0x48, 0x01] =
    .ok (.vpmaxswEvex512
      { pfx := noPrefixes, d := 1, s1 := 2, src := .mem (.base 0 (.disp8 1)), aaa := 2, z := false, b := false }, []) ∧
  decode .long64 [0x62, 0xF2, 0x6D, 0xD9, 0x3D, 0x08] =
    .ok (.vpmaxsdEvex512
      { pfx := noPrefixes, d := 1, s1 := 2, src := .mem (.base 0 .none), aaa := 1, z := true, b := true }, [])

/-- Behind any bytes that are legacy prefixes (admitted or not, in any order) and any REX byte or none, flipping bit 7 of the
second payload byte of a three-byte VEX prefix, or of P1 of an EVEX prefix before opcode 3C or EE, changes nothing the
decoder answers. (R156) -/
def Obligations.IgnoredWidthBit : Prop :=
  ∀ (mode : Mode) (pre rx : List Byte) (b1 b2 p0 p1 p2 op : Byte) (rest : List Byte),
    (∀ b ∈ pre, b ∈ prefixBytes) → OptionalRex rx →
    decode mode (pre ++ rx ++ [0xC4, b1, b2 ^^^ 0x80, op] ++ rest) =
      decode mode (pre ++ rx ++ [0xC4, b1, b2, op] ++ rest) ∧
    (op = 0x3C ∨ op = 0xEE →
      decode mode (pre ++ rx ++ [0x62, p0, p1 ^^^ 0x80, p2, op] ++ rest) =
        decode mode (pre ++ rx ++ [0x62, p0, p1, p2, op] ++ rest))

/-- For operands that are not RIP-relative (those count from the instruction's end), the two-byte and the three-byte VEX form of
VPMAXSW, at 128 and at 256 bits, answer the same outcome but for the pc, which the short form advances by its own length.
(R119, R182, R185) -/
def Obligations.ShortVexMeansLongVex : Prop :=
  ∀ (o : VexOperands) (s : State), (∀ d, o.src ≠ .mem (.pcRelative d)) →
    exec (.vpmaxswVex128Short o) s =
      mapNext (fun t => { t with pc := pcPlus s (Instr.vpmaxswVex128Short o).length }) (exec (.vpmaxswVex128 o) s) ∧
    exec (.vpmaxswVex256Short o) s =
      mapNext (fun t => { t with pc := pcPlus s (Instr.vpmaxswVex256Short o).length }) (exec (.vpmaxswVex256 o) s)

/-- In an admitted state, if the bytes at pc decode to an instruction, the step is exec of it in that state; if they are one of
the reserved EVEX patterns the step answers #UD; if they decode to nothing else it refuses with the decoder's reason. (How
bytes are fetched is the model's choice, log 4.) (R42, R246) -/
def Obligations.StepRunsTheDecodedInstruction : Prop :=
  ∀ s : State, Launchable s →
    (∀ i rest, decode s.mode (fetchBytes s) = .ok (i, rest) → step s = exec i s) ∧
    (∀ e, decode s.mode (fetchBytes s) = .error e →
      step s = if e = .evexReservedBits ∨ e = .evexReservedLength then .fault .invalidOpcode
        else .refused (.undecodable e))

/-- For every state whose memory is in canonical form, whose vector registers have no bit at or above MAXVL and no V[16..31]
without 512-bit registers, whose pc fits 32 bits in Prot32 and whose XCR0 bit 0 is 1: if the step answers a next state, all
of that holds of it. (R6, R41, R47, R59, R80) -/
def Obligations.StepKeepsInvariant : Prop :=
  ∀ s t : State, Inv s → step s = .next t → Inv t

/-- For every set of CPUID features, the reset state of a processor with them has memory in canonical form, no vector bit at or
above MAXVL, V[16..31] equal to 0 where MAXVL is below 512, and XCR0 bit 0 equal to 1; pc is not constrained in real-address
mode. (State.reset itself has all eight features, the model's choice, log 11; that the upper vector bits and V[16..31] are 0
is its choice, log 8.) (R6, R7, R47, R59, R70) -/
def Obligations.ResetMeetsInvariant : Prop :=
  ∀ f : Features, Inv { State.reset with features := f }

/-- If n steps from a state answer a next state, every byte of memory and every register but pc, the vector registers, the x87
data registers, status and tag words and XINUSE is as it was, and the invariant holds if it held; so a run executes the
bytes that stood in memory when it began. Of other processors' writes some more may have become visible, in an order R101
allows (log 22). (That fetch takes no byte of another processor's writes is R104 and log 4.) (That the x87 last-instruction
and last-data pointers are among the registers left unchanged is the model's, log 30.) (R43, R65, R83, R104, R270) -/
def Obligations.RunKeepsFrameAndInvariant : Prop :=
  ∀ (n : Nat) (s t : State), Sys2Proof.core.run n s = .next t → Frame s t ∧ (Inv s → Inv t)

/-- After RESET: XMM0 to XMM15 and MM0 to MM7 are 0, the x87 status, tag and control words 0000H, 5555H, 0040H, MXCSR 1F80H, CR0
60000010H, CR4 0, XCR0 1, EFLAGS 2, EIP FFF0H, CS F000H with base FFFF0000H and limit FFFFH, the other segments 0 with limit
FFFFH, EAX, EBX, ECX, ESI, EDI, EBP, ESP 0, real-address mode at CPL 0. (The table gives EAX = 0 only where the built-in
self-test passed or was not run, and gives 32 bits of each general register, of the instruction pointer and of CR4: that EAX
is 0, and that bits 63:32 of these are 0, is the model's choice, log 7.) (R70, R260) -/
def Obligations.ResetValuesOfTheTable : Prop :=
  (∀ i : Fin 16, readV 128 State.reset (vreg i) = 0) ∧ (∀ i : Fin 8, readMm State.reset i = 0) ∧
  State.reset.x87Status = 0 ∧ State.reset.x87Tag = 0x5555 ∧ State.reset.x87Control = 0x0040 ∧
  State.reset.mxcsr = 0x1F80 ∧ State.reset.cr0 = 0x60000010 ∧ State.reset.cr4 = 0 ∧ State.reset.xcr0 = 1 ∧
  State.reset.eflags = 2 ∧ State.reset.pc = 0xFFF0 ∧ State.reset.segs.cs.selector = 0xF000 ∧
  State.reset.segs.cs.base = 0xFFFF0000 ∧ State.reset.segs.cs.limit = 0xFFFF ∧
  (∀ g ∈ [SegName.es, .ss, .ds, .fs, .gs], (segReg State.reset g).selector = 0 ∧ (segReg State.reset g).base = 0 ∧
    (segReg State.reset g).limit = 0xFFFF) ∧
  (∀ i ∈ [(0 : Fin 16), 1, 3, 4, 5, 6, 7], readX State.reset i = 0) ∧
  State.reset.mode = .realAddress ∧ cpl State.reset = 0

/-- After INIT from any state: vector, x87 and opmask registers, the x87 status, tag and control words, MXCSR and XCR0 are
unchanged; CR0 keeps CD and NW, has bit 4 set and every other bit clear; CR4 is 0, EFLAGS 2, EIP FFF0H, the segments as
after reset, EAX, EBX, ECX, ESI, EDI, EBP, ESP 0, the mode real-address. (The table gives 32 bits of each general register,
of the instruction pointer and of CR4: that bits 63:32 of these are 0 is the model's choice, log 20. It gives selector, base
and limit of each segment: that INIT sets the right to read and the bounds as reset does is the model's choice, logs 9 and
20.) (R70, R262) -/
def Obligations.InitValuesOfTheTable : Prop :=
  ∀ s : State,
    s.init.v = s.v ∧ s.init.r = s.r ∧ s.init.k = s.k ∧ s.init.x87Status = s.x87Status ∧ s.init.x87Tag = s.x87Tag ∧
    s.init.x87Control = s.x87Control ∧ s.init.mxcsr = s.mxcsr ∧ s.init.xcr0 = s.xcr0 ∧
    (∀ n < 64, s.init.cr0.getLsbD n = (if n = 29 ∨ n = 30 then s.cr0.getLsbD n else decide (n = 4))) ∧
    s.init.cr4 = 0 ∧ s.init.eflags = 2 ∧ s.init.pc = 0xFFF0 ∧ s.init.segs = State.reset.segs ∧
    (∀ i ∈ [(0 : Fin 16), 1, 3, 4, 5, 6, 7], readX s.init i = 0) ∧ s.init.mode = .realAddress

/-- For every state and every instruction with its row's features present, no prefix that is #UD and no reserved EVEX form: in
the state after the boot operation (the launch state of the model, log 5) all the checks pass. (R264, R265, R266, R267) -/
def Obligations.BootMakesFormsReady : Prop :=
  ∀ (i : Instr) (s : State), featuresClosed s.features = true → hasAll s.features (rowFeatures i) = true →
    (match shapeOf i with
      | .mmx o => o.pfx.lock = false
      | .sse o => o.pfx.lock = false
      | .vex o => illegalBeforeVex o.pfx = false
      | .evex broadcast o => illegalBeforeVex o.pfx = false ∧ EvexAllowed broadcast o) →
    Ready i s.boot

/-- The step from State.reset, and from the state after INIT, answers the refusal modeNotAdmitted (the model admits Long64 and
Prot32 only, log 21). (R70, R71, R240) -/
def Obligations.ResetRunsNoInstruction : Prop :=
  step State.reset = .refused .modeNotAdmitted ∧ ∀ s : State, step s.init = .refused .modeNotAdmitted

/-- If two memories are in canonical form and every byte reads the same in both, they are the same list. (That an unlisted byte
reads 0 is the model's choice, log 10; the statement holds whatever it reads.) (R80, R84) -/
def Obligations.CanonicalMemoriesAreEqual : Prop :=
  ∀ m n : Memory, Memory.wf m = true → Memory.wf n = true → (∀ a, readByte m a = readByte n a) → m = n

/-- For every instruction and state, some writes of other processors become visible during the step, in an order R101 allows,
and there is a memory that holds at each address the byte of the last write visible at some moment of that order, such that
the outcome is that of the instruction on this memory without other writers; memory is kept and those writes are visible
after it. If the operand has at most 8 consecutive bytes at a multiple of their number, its bytes are those of one moment.
So where no other processor writes, the bytes read are those of memory. (How others' writes are held, and that the choices
are free, is the model's, log 22 and log 28.) (R93, R101, R246) -/
def Obligations.OtherWritersBytesAreWritten : Prop :=
  ∀ (i : Instr) (s : State), ∃ (m : Memory) (ps ls : List OtherWrite),
    Lands s.pending s.landed ps ls ∧
    (∀ a, ∃ ps' ls', Lands s.pending s.landed ps' ls' ∧ Lands ps' ls' ps ls ∧ readByte m a = seenByte s.mem ls' a) ∧
    (∀ op, operandOf i s = some op → op.bytes ≤ 8 → (byteLinear s op.place 0).toNat % op.bytes = 0 →
      (∀ k < op.bytes, (byteLinear s op.place k).toNat = (byteLinear s op.place 0).toNat + k) →
      ∃ ps' ls', Lands s.pending s.landed ps' ls' ∧ Lands ps' ls' ps ls ∧
        ∀ k < op.bytes, ∀ a, bytePhysical s op.place k = some a → readByte m a = seenByte s.mem ls' a) ∧
    exec i s =
      mapNext (fun t => { t with mem := s.mem, pending := ps, landed := ls })
        (exec i { s with mem := m, pending := [], landed := [] })

/-- If one or more steps from s answer the next state t, a data read at t sees every write of another processor that a data read
at s saw. Whatever becomes visible from a list of pending writes with distinct ids: if a write w2 is visible, so is every
write w1 that stood before it among its own processor's, if both are ordinary, and every pending write that w2 causally
follows, and each became visible earlier than w2; so no read gives old data after a newer flag. The exceptions are open: any
pending write that causally follows no pending one may become visible next if, of any earlier write of its processor and
itself, one is a non-temporal or a string store. (How others' writes are held, and that the exceptions are not narrowed, is
the model's, log 22.) (R101) -/
def Obligations.OtherWritesSeenInOrder : Prop :=
  (∀ (n : Nat) (s t : State), Sys2Proof.core.run (n + 1) s = .next t → ∀ (p q : Place) (j k a b : Nat),
    landedSeen s p j a <:+ landedSeen t q k b) ∧
  (∀ (ps ls ps' ls' : List OtherWrite) (w1 w2 : OtherWrite), Lands ps ls ps' ls' →
    ((ps ++ ls).map (fun w => w.id)).Nodup → w1 ∈ ps → w2 ∈ ps →
    (w1.id ∈ w2.after ∨ (w1.writer = w2.writer ∧ w1.kind = .ordinary ∧ w2.kind = .ordinary ∧
      ∃ x y z, ps = x ++ w1 :: y ++ w2 :: z)) →
    w2 ∈ ls' → ∃ x y z, ls' = x ++ w2 :: y ++ w1 :: z) ∧
  ∀ (x y ls : List OtherWrite) (w : OtherWrite), (∀ u ∈ x ++ w :: y, u.id ∉ w.after) →
    (∀ u ∈ x, u.writer = w.writer → u.kind ≠ .ordinary ∨ w.kind ≠ .ordinary) →
    Lands (x ++ w :: y) ls ((x ++ w :: y).erase w) (w :: ls)

end
end

