-- ==== Sys2Proof/Laws/Checks.lean ====
section
/-! SUPPORT. When the checks of 60_exceptions R230 let a form go on. -/

namespace Sys2Proof.Machine

open Sys2Proof.Safety

/-- The states that are not refused outright. -/
theorem launchStop_none_iff (s : State) : launchStop s = none ↔ Launchable s := by
  simp only [launchStop, Launchable]
  split
  · simp_all
  · split
    · simp_all
    · split
      · simp_all
      · split <;> simp_all
        tauto

/-- `Check_MMX` passes. -/
theorem checkMmx_none_iff (p : Prefixes) (s : State) :
    checkMmx p s = none ↔
      Launchable s ∧ p.lock = false ∧ hasFeature s.features .sse = true ∧ cr0Em s = false ∧ cr4Osfxsr s = true ∧
        cr0Ts s = false ∧ x87Pending s = false := by
  rw [← launchStop_none_iff]
  simp only [checkMmx]
  cases launchStop s with
  | some r => simp
  | none =>
    cases p.lock <;> cases hasFeature s.features .sse <;> cases cr0Em s <;> cases cr4Osfxsr s <;> cases cr0Ts s <;>
      cases x87Pending s <;> cases cr0Ne s <;> simp

/-- `Check_SSE` passes. -/
theorem checkSse_none_iff (flag : Feature) (p : Prefixes) (s : State) :
    checkSse flag p s = none ↔
      Launchable s ∧ p.lock = false ∧ hasFeature s.features flag = true ∧ cr0Em s = false ∧ cr4Osfxsr s = true ∧
        cr0Ts s = false := by
  rw [← launchStop_none_iff]
  simp only [checkSse]
  cases launchStop s with
  | some r => simp
  | none =>
    cases p.lock <;> cases hasFeature s.features flag <;> cases cr0Em s <;> cases cr4Osfxsr s <;> cases cr0Ts s <;>
      simp

/-- `Check_VEX` passes. -/
theorem checkVex_none_iff (flag : Feature) (p : Prefixes) (s : State) :
    checkVex flag p s = none ↔
      Launchable s ∧ illegalBeforeVex p = false ∧ cr4Osxsave s = true ∧ xcr0Avx s = true ∧
        hasFeature s.features flag = true ∧ cr0Ts s = false := by
  rw [← launchStop_none_iff]
  simp only [checkVex]
  cases launchStop s with
  | some r => simp
  | none =>
    cases illegalBeforeVex p <;> cases cr4Osxsave s <;> cases xcr0Avx s <;> cases hasFeature s.features flag <;>
      cases cr0Ts s <;> simp

/-- The reserved forms are those that `EvexAllowed` leaves out. -/
theorem evexReservedForm_false_iff (broadcast : Bool) (o : EvexOperands) :
    evexReservedForm broadcast o = false ↔ EvexAllowed broadcast o := by
  obtain ⟨pfx, d, s1, src, aaa, z, b⟩ := o
  cases src <;> cases b <;> cases broadcast <;> cases z <;> simp [evexReservedForm, EvexAllowed, inMemory, isMasked]

/-- `Check_EVEX` passes. -/
theorem checkEvex_none_iff (flags : List Feature) (broadcast : Bool) (o : EvexOperands) (s : State) :
    checkEvex flags broadcast o s = none ↔
      Launchable s ∧ illegalBeforeVex o.pfx = false ∧ EvexAllowed broadcast o ∧ cr4Osxsave s = true ∧
        xcr0Avx s = true ∧ xcr0Avx512 s = true ∧ hasAll s.features flags = true ∧ cr0Ts s = false := by
  rw [← launchStop_none_iff, ← evexReservedForm_false_iff]
  simp only [checkEvex]
  cases launchStop s with
  | some r => simp
  | none =>
    cases illegalBeforeVex o.pfx <;> cases evexReservedForm broadcast o <;> cases cr4Osxsave s <;> cases xcr0Avx s <;>
      cases xcr0Avx512 s <;> cases hasAll s.features flags <;> cases cr0Ts s <;> simp

/-- A list of one flag is there when the flag is. -/
theorem hasAll_one (fs : Features) (f : Feature) : hasAll fs [f] = hasFeature fs f := by
  simp [hasAll]

end Sys2Proof.Machine
end

