-- ==== Sys2Proof/Laws/Lanes.lean ====
section
/-! SUPPORT. What the lane operations can do: every lane of a packed value, and nothing above the last. -/

namespace Sys2Proof.Machine

/-- A bit of a lane. -/
theorem lane_getLsbD {VL : Nat} (N : Nat) (v : BitVec VL) (j n : Nat) (h : n < N) :
    (lane N v j).getLsbD n = v.getLsbD (j * N + n) := by
  simp [lane, h]

/-- A bit of a packed value is the bit of its lane, and 0 above the lanes. -/
theorem packLanes_getLsbD (N VL : Nat) (f : Nat → BitVec N) (n p : Nat) (hp : p < VL) :
    (packLanes N VL f n).getLsbD p = (decide (p < n * N) && (f (p / N)).getLsbD (p % N)) := by
  rcases Nat.eq_zero_or_pos N with rfl | hN
  · have : ∀ n, packLanes 0 VL f n = 0 := by
      intro n
      induction n with
      | zero => rfl
      | succ n ih =>
        have : f n = 0#0 := BitVec.of_length_zero
        simp [packLanes, ih, this]
    simp [this]
  · induction n with
    | zero => simp [packLanes]
    | succ n ih =>
      simp only [packLanes, BitVec.getLsbD_or, ih, BitVec.getLsbD_shiftLeft, BitVec.getLsbD_setWidth]
      rw [Nat.succ_mul]
      by_cases h1 : p < n * N
      · simp [h1, Nat.lt_add_right N h1]
      · by_cases h2 : p < n * N + N
        · have hdiv : p / N = n := by
            apply Nat.div_eq_of_lt_le
            · omega
            · rw [Nat.succ_mul]; exact h2
          have hmod : p % N = p - n * N := by
            have := Nat.div_add_mod p N
            rw [hdiv, Nat.mul_comm] at this
            omega
          simp [h1, h2, hp, hdiv, hmod]
          omega
        · have : N ≤ p - n * N := by omega
          simp [h1, h2, BitVec.getLsbD_of_ge _ _ this]

/-- Lane `j` of a packed value is what was packed there. -/
theorem lane_packLanes (N VL : Nat) (f : Nat → BitVec N) (n j : Nat) (hj : j < n) (hn : n * N ≤ VL) :
    lane N (packLanes N VL f n) j = f j := by
  apply BitVec.eq_of_getLsbD_eq
  intro i hi
  have hjn : j * N + N ≤ n * N := by
    rw [← Nat.succ_mul]; exact Nat.mul_le_mul_right N hj
  have hN : 0 < N := by omega
  rw [lane_getLsbD _ _ _ _ hi, packLanes_getLsbD _ _ _ _ _ (by omega)]
  have h1 : (j * N + i) / N = j := by
    rw [Nat.mul_comm, Nat.mul_add_div hN, Nat.div_eq_of_lt hi, Nat.add_zero]
  have h2 : (j * N + i) % N = i := by
    rw [Nat.mul_comm, Nat.mul_add_mod, Nat.mod_eq_of_lt hi]
  rw [h1, h2]
  simp; omega

/-- The lanes packed fit their vector. -/
theorem lanes_fit (N VL : Nat) : VL / N * N ≤ VL := Nat.div_mul_le_self VL N

end Sys2Proof.Machine
end

