-- ==== Sys2Proof/Laws/State.lean ====
section
/-! SUPPORT. One lemma per field per update of the state, so that no proof unfolds a record update. -/

namespace Sys2Proof.Machine

/-! ## A vector register written -/

@[simp] theorem writeV_pc (s : State) (i : Fin 32) (w : VReg) : (writeV s i w).pc = s.pc := rfl
@[simp] theorem writeV_x (s : State) (i : Fin 32) (w : VReg) : (writeV s i w).x = s.x := rfl
@[simp] theorem writeV_v (s : State) (i : Fin 32) (w : VReg) : (writeV s i w).v = s.v.set i w := rfl
@[simp] theorem writeV_k (s : State) (i : Fin 32) (w : VReg) : (writeV s i w).k = s.k := rfl
@[simp] theorem writeV_r (s : State) (i : Fin 32) (w : VReg) : (writeV s i w).r = s.r := rfl
@[simp] theorem writeV_x87Status (s : State) (i : Fin 32) (w : VReg) : (writeV s i w).x87Status = s.x87Status := rfl
@[simp] theorem writeV_x87Tag (s : State) (i : Fin 32) (w : VReg) : (writeV s i w).x87Tag = s.x87Tag := rfl
@[simp] theorem writeV_x87Control (s : State) (i : Fin 32) (w : VReg) : (writeV s i w).x87Control = s.x87Control := rfl
@[simp] theorem writeV_x87LastInstr (s : State) (i : Fin 32) (w : VReg) : (writeV s i w).x87LastInstr = s.x87LastInstr := rfl
@[simp] theorem writeV_x87LastData (s : State) (i : Fin 32) (w : VReg) : (writeV s i w).x87LastData = s.x87LastData := rfl
@[simp] theorem writeV_mxcsr (s : State) (i : Fin 32) (w : VReg) : (writeV s i w).mxcsr = s.mxcsr := rfl
@[simp] theorem writeV_cr0 (s : State) (i : Fin 32) (w : VReg) : (writeV s i w).cr0 = s.cr0 := rfl
@[simp] theorem writeV_cr2 (s : State) (i : Fin 32) (w : VReg) : (writeV s i w).cr2 = s.cr2 := rfl
@[simp] theorem writeV_cr4 (s : State) (i : Fin 32) (w : VReg) : (writeV s i w).cr4 = s.cr4 := rfl
@[simp] theorem writeV_xcr0 (s : State) (i : Fin 32) (w : VReg) : (writeV s i w).xcr0 = s.xcr0 := rfl
@[simp] theorem writeV_xinuse (s : State) (i : Fin 32) (w : VReg) : (writeV s i w).xinuse = xinuseAfterWrite s := rfl
@[simp] theorem writeV_eflags (s : State) (i : Fin 32) (w : VReg) : (writeV s i w).eflags = s.eflags := rfl
@[simp] theorem writeV_segs (s : State) (i : Fin 32) (w : VReg) : (writeV s i w).segs = s.segs := rfl
@[simp] theorem writeV_dr (s : State) (i : Fin 32) (w : VReg) : (writeV s i w).dr = s.dr := rfl
@[simp] theorem writeV_dr7 (s : State) (i : Fin 32) (w : VReg) : (writeV s i w).dr7 = s.dr7 := rfl
@[simp] theorem writeV_mode (s : State) (i : Fin 32) (w : VReg) : (writeV s i w).mode = s.mode := rfl
@[simp] theorem writeV_features (s : State) (i : Fin 32) (w : VReg) : (writeV s i w).features = s.features := rfl
@[simp] theorem writeV_pages (s : State) (i : Fin 32) (w : VReg) : (writeV s i w).pages = s.pages := rfl
@[simp] theorem writeV_regions (s : State) (i : Fin 32) (w : VReg) : (writeV s i w).regions = s.regions := rfl
@[simp] theorem writeV_pending (s : State) (i : Fin 32) (w : VReg) : (writeV s i w).pending = s.pending := rfl
@[simp] theorem writeV_landed (s : State) (i : Fin 32) (w : VReg) : (writeV s i w).landed = s.landed := rfl
@[simp] theorem writeV_mem (s : State) (i : Fin 32) (w : VReg) : (writeV s i w).mem = s.mem := rfl
@[simp] theorem writeV_draws (s : State) (i : Fin 32) (w : VReg) : (writeV s i w).draws = s.draws := rfl

/-! ## An MMX register written -/

@[simp] theorem writeMm_pc (s : State) (i : Fin 8) (w : Qword) : (writeMm s i w).pc = s.pc := rfl
@[simp] theorem writeMm_x (s : State) (i : Fin 8) (w : Qword) : (writeMm s i w).x = s.x := rfl
@[simp] theorem writeMm_v (s : State) (i : Fin 8) (w : Qword) : (writeMm s i w).v = s.v := rfl
@[simp] theorem writeMm_k (s : State) (i : Fin 8) (w : Qword) : (writeMm s i w).k = s.k := rfl
@[simp] theorem writeMm_r (s : State) (i : Fin 8) (w : Qword) : (writeMm s i w).r = s.r.set i (0xFFFF#16 ++ w) := rfl
@[simp] theorem writeMm_x87Status (s : State) (i : Fin 8) (w : Qword) : (writeMm s i w).x87Status = clearTop s.x87Status := rfl
@[simp] theorem writeMm_x87Tag (s : State) (i : Fin 8) (w : Qword) : (writeMm s i w).x87Tag = 0 := rfl
@[simp] theorem writeMm_x87Control (s : State) (i : Fin 8) (w : Qword) : (writeMm s i w).x87Control = s.x87Control := rfl
@[simp] theorem writeMm_x87LastInstr (s : State) (i : Fin 8) (w : Qword) : (writeMm s i w).x87LastInstr = s.x87LastInstr := rfl
@[simp] theorem writeMm_x87LastData (s : State) (i : Fin 8) (w : Qword) : (writeMm s i w).x87LastData = s.x87LastData := rfl
@[simp] theorem writeMm_mxcsr (s : State) (i : Fin 8) (w : Qword) : (writeMm s i w).mxcsr = s.mxcsr := rfl
@[simp] theorem writeMm_cr0 (s : State) (i : Fin 8) (w : Qword) : (writeMm s i w).cr0 = s.cr0 := rfl
@[simp] theorem writeMm_cr2 (s : State) (i : Fin 8) (w : Qword) : (writeMm s i w).cr2 = s.cr2 := rfl
@[simp] theorem writeMm_cr4 (s : State) (i : Fin 8) (w : Qword) : (writeMm s i w).cr4 = s.cr4 := rfl
@[simp] theorem writeMm_xcr0 (s : State) (i : Fin 8) (w : Qword) : (writeMm s i w).xcr0 = s.xcr0 := rfl
@[simp] theorem writeMm_xinuse (s : State) (i : Fin 8) (w : Qword) : (writeMm s i w).xinuse = s.xinuse := rfl
@[simp] theorem writeMm_eflags (s : State) (i : Fin 8) (w : Qword) : (writeMm s i w).eflags = s.eflags := rfl
@[simp] theorem writeMm_segs (s : State) (i : Fin 8) (w : Qword) : (writeMm s i w).segs = s.segs := rfl
@[simp] theorem writeMm_dr (s : State) (i : Fin 8) (w : Qword) : (writeMm s i w).dr = s.dr := rfl
@[simp] theorem writeMm_dr7 (s : State) (i : Fin 8) (w : Qword) : (writeMm s i w).dr7 = s.dr7 := rfl
@[simp] theorem writeMm_mode (s : State) (i : Fin 8) (w : Qword) : (writeMm s i w).mode = s.mode := rfl
@[simp] theorem writeMm_features (s : State) (i : Fin 8) (w : Qword) : (writeMm s i w).features = s.features := rfl
@[simp] theorem writeMm_pages (s : State) (i : Fin 8) (w : Qword) : (writeMm s i w).pages = s.pages := rfl
@[simp] theorem writeMm_regions (s : State) (i : Fin 8) (w : Qword) : (writeMm s i w).regions = s.regions := rfl
@[simp] theorem writeMm_pending (s : State) (i : Fin 8) (w : Qword) : (writeMm s i w).pending = s.pending := rfl
@[simp] theorem writeMm_landed (s : State) (i : Fin 8) (w : Qword) : (writeMm s i w).landed = s.landed := rfl
@[simp] theorem writeMm_mem (s : State) (i : Fin 8) (w : Qword) : (writeMm s i w).mem = s.mem := rfl
@[simp] theorem writeMm_draws (s : State) (i : Fin 8) (w : Qword) : (writeMm s i w).draws = s.draws := rfl

/-! ## An instruction completed -/

@[simp] theorem retire_pc (n : Nat) (s : State) : (retire n s).pc = pcPlus s n := rfl
@[simp] theorem retire_x (n : Nat) (s : State) : (retire n s).x = s.x := rfl
@[simp] theorem retire_v (n : Nat) (s : State) : (retire n s).v = s.v := rfl
@[simp] theorem retire_k (n : Nat) (s : State) : (retire n s).k = s.k := rfl
@[simp] theorem retire_r (n : Nat) (s : State) : (retire n s).r = s.r := rfl
@[simp] theorem retire_x87Status (n : Nat) (s : State) : (retire n s).x87Status = s.x87Status := rfl
@[simp] theorem retire_x87Tag (n : Nat) (s : State) : (retire n s).x87Tag = s.x87Tag := rfl
@[simp] theorem retire_x87Control (n : Nat) (s : State) : (retire n s).x87Control = s.x87Control := rfl
@[simp] theorem retire_x87LastInstr (n : Nat) (s : State) : (retire n s).x87LastInstr = s.x87LastInstr := rfl
@[simp] theorem retire_x87LastData (n : Nat) (s : State) : (retire n s).x87LastData = s.x87LastData := rfl
@[simp] theorem retire_mxcsr (n : Nat) (s : State) : (retire n s).mxcsr = s.mxcsr := rfl
@[simp] theorem retire_cr0 (n : Nat) (s : State) : (retire n s).cr0 = s.cr0 := rfl
@[simp] theorem retire_cr2 (n : Nat) (s : State) : (retire n s).cr2 = s.cr2 := rfl
@[simp] theorem retire_cr4 (n : Nat) (s : State) : (retire n s).cr4 = s.cr4 := rfl
@[simp] theorem retire_xcr0 (n : Nat) (s : State) : (retire n s).xcr0 = s.xcr0 := rfl
@[simp] theorem retire_xinuse (n : Nat) (s : State) : (retire n s).xinuse = s.xinuse := rfl
@[simp] theorem retire_eflags (n : Nat) (s : State) : (retire n s).eflags = s.eflags := rfl
@[simp] theorem retire_segs (n : Nat) (s : State) : (retire n s).segs = s.segs := rfl
@[simp] theorem retire_dr (n : Nat) (s : State) : (retire n s).dr = s.dr := rfl
@[simp] theorem retire_dr7 (n : Nat) (s : State) : (retire n s).dr7 = s.dr7 := rfl
@[simp] theorem retire_mode (n : Nat) (s : State) : (retire n s).mode = s.mode := rfl
@[simp] theorem retire_features (n : Nat) (s : State) : (retire n s).features = s.features := rfl
@[simp] theorem retire_pages (n : Nat) (s : State) : (retire n s).pages = s.pages := rfl
@[simp] theorem retire_regions (n : Nat) (s : State) : (retire n s).regions = s.regions := rfl
@[simp] theorem retire_pending (n : Nat) (s : State) : (retire n s).pending = (landing s).1 := rfl
@[simp] theorem retire_landed (n : Nat) (s : State) : (retire n s).landed = (landing s).2 := rfl
@[simp] theorem retire_mem (n : Nat) (s : State) : (retire n s).mem = s.mem := rfl
@[simp] theorem retire_draws (n : Nat) (s : State) : (retire n s).draws = s.draws + 1 := rfl

/-! ## A legacy-SSE write -/

@[simp] theorem writeXmmKeep_pc (s : State) (i : Fin 32) (w : BitVec 128) : (writeXmmKeep s i w).pc = s.pc := rfl
@[simp] theorem writeXmmKeep_x (s : State) (i : Fin 32) (w : BitVec 128) : (writeXmmKeep s i w).x = s.x := rfl
@[simp] theorem writeXmmKeep_v (s : State) (i : Fin 32) (w : BitVec 128) : (writeXmmKeep s i w).v = s.v.set i (keepUpper (s.v.get i) w) := rfl
@[simp] theorem writeXmmKeep_k (s : State) (i : Fin 32) (w : BitVec 128) : (writeXmmKeep s i w).k = s.k := rfl
@[simp] theorem writeXmmKeep_r (s : State) (i : Fin 32) (w : BitVec 128) : (writeXmmKeep s i w).r = s.r := rfl
@[simp] theorem writeXmmKeep_x87Status (s : State) (i : Fin 32) (w : BitVec 128) : (writeXmmKeep s i w).x87Status = s.x87Status := rfl
@[simp] theorem writeXmmKeep_x87Tag (s : State) (i : Fin 32) (w : BitVec 128) : (writeXmmKeep s i w).x87Tag = s.x87Tag := rfl
@[simp] theorem writeXmmKeep_x87Control (s : State) (i : Fin 32) (w : BitVec 128) : (writeXmmKeep s i w).x87Control = s.x87Control := rfl
@[simp] theorem writeXmmKeep_x87LastInstr (s : State) (i : Fin 32) (w : BitVec 128) : (writeXmmKeep s i w).x87LastInstr = s.x87LastInstr := rfl
@[simp] theorem writeXmmKeep_x87LastData (s : State) (i : Fin 32) (w : BitVec 128) : (writeXmmKeep s i w).x87LastData = s.x87LastData := rfl
@[simp] theorem writeXmmKeep_mxcsr (s : State) (i : Fin 32) (w : BitVec 128) : (writeXmmKeep s i w).mxcsr = s.mxcsr := rfl
@[simp] theorem writeXmmKeep_cr0 (s : State) (i : Fin 32) (w : BitVec 128) : (writeXmmKeep s i w).cr0 = s.cr0 := rfl
@[simp] theorem writeXmmKeep_cr2 (s : State) (i : Fin 32) (w : BitVec 128) : (writeXmmKeep s i w).cr2 = s.cr2 := rfl
@[simp] theorem writeXmmKeep_cr4 (s : State) (i : Fin 32) (w : BitVec 128) : (writeXmmKeep s i w).cr4 = s.cr4 := rfl
@[simp] theorem writeXmmKeep_xcr0 (s : State) (i : Fin 32) (w : BitVec 128) : (writeXmmKeep s i w).xcr0 = s.xcr0 := rfl
@[simp] theorem writeXmmKeep_xinuse (s : State) (i : Fin 32) (w : BitVec 128) : (writeXmmKeep s i w).xinuse = xinuseAfterWrite s := rfl
@[simp] theorem writeXmmKeep_eflags (s : State) (i : Fin 32) (w : BitVec 128) : (writeXmmKeep s i w).eflags = s.eflags := rfl
@[simp] theorem writeXmmKeep_segs (s : State) (i : Fin 32) (w : BitVec 128) : (writeXmmKeep s i w).segs = s.segs := rfl
@[simp] theorem writeXmmKeep_dr (s : State) (i : Fin 32) (w : BitVec 128) : (writeXmmKeep s i w).dr = s.dr := rfl
@[simp] theorem writeXmmKeep_dr7 (s : State) (i : Fin 32) (w : BitVec 128) : (writeXmmKeep s i w).dr7 = s.dr7 := rfl
@[simp] theorem writeXmmKeep_mode (s : State) (i : Fin 32) (w : BitVec 128) : (writeXmmKeep s i w).mode = s.mode := rfl
@[simp] theorem writeXmmKeep_features (s : State) (i : Fin 32) (w : BitVec 128) : (writeXmmKeep s i w).features = s.features := rfl
@[simp] theorem writeXmmKeep_pages (s : State) (i : Fin 32) (w : BitVec 128) : (writeXmmKeep s i w).pages = s.pages := rfl
@[simp] theorem writeXmmKeep_regions (s : State) (i : Fin 32) (w : BitVec 128) : (writeXmmKeep s i w).regions = s.regions := rfl
@[simp] theorem writeXmmKeep_pending (s : State) (i : Fin 32) (w : BitVec 128) : (writeXmmKeep s i w).pending = s.pending := rfl
@[simp] theorem writeXmmKeep_landed (s : State) (i : Fin 32) (w : BitVec 128) : (writeXmmKeep s i w).landed = s.landed := rfl
@[simp] theorem writeXmmKeep_mem (s : State) (i : Fin 32) (w : BitVec 128) : (writeXmmKeep s i w).mem = s.mem := rfl
@[simp] theorem writeXmmKeep_draws (s : State) (i : Fin 32) (w : BitVec 128) : (writeXmmKeep s i w).draws = s.draws := rfl

/-! ## A VEX or EVEX write -/

@[simp] theorem writeVZero_pc {VL : Nat} (s : State) (i : Fin 32) (w : BitVec VL) : (writeVZero s i w).pc = s.pc := rfl
@[simp] theorem writeVZero_x {VL : Nat} (s : State) (i : Fin 32) (w : BitVec VL) : (writeVZero s i w).x = s.x := rfl
@[simp] theorem writeVZero_v {VL : Nat} (s : State) (i : Fin 32) (w : BitVec VL) : (writeVZero s i w).v = s.v.set i (w.setWidth 512) := rfl
@[simp] theorem writeVZero_k {VL : Nat} (s : State) (i : Fin 32) (w : BitVec VL) : (writeVZero s i w).k = s.k := rfl
@[simp] theorem writeVZero_r {VL : Nat} (s : State) (i : Fin 32) (w : BitVec VL) : (writeVZero s i w).r = s.r := rfl
@[simp] theorem writeVZero_x87Status {VL : Nat} (s : State) (i : Fin 32) (w : BitVec VL) : (writeVZero s i w).x87Status = s.x87Status := rfl
@[simp] theorem writeVZero_x87Tag {VL : Nat} (s : State) (i : Fin 32) (w : BitVec VL) : (writeVZero s i w).x87Tag = s.x87Tag := rfl
@[simp] theorem writeVZero_x87Control {VL : Nat} (s : State) (i : Fin 32) (w : BitVec VL) : (writeVZero s i w).x87Control = s.x87Control := rfl
@[simp] theorem writeVZero_x87LastInstr {VL : Nat} (s : State) (i : Fin 32) (w : BitVec VL) : (writeVZero s i w).x87LastInstr = s.x87LastInstr := rfl
@[simp] theorem writeVZero_x87LastData {VL : Nat} (s : State) (i : Fin 32) (w : BitVec VL) : (writeVZero s i w).x87LastData = s.x87LastData := rfl
@[simp] theorem writeVZero_mxcsr {VL : Nat} (s : State) (i : Fin 32) (w : BitVec VL) : (writeVZero s i w).mxcsr = s.mxcsr := rfl
@[simp] theorem writeVZero_cr0 {VL : Nat} (s : State) (i : Fin 32) (w : BitVec VL) : (writeVZero s i w).cr0 = s.cr0 := rfl
@[simp] theorem writeVZero_cr2 {VL : Nat} (s : State) (i : Fin 32) (w : BitVec VL) : (writeVZero s i w).cr2 = s.cr2 := rfl
@[simp] theorem writeVZero_cr4 {VL : Nat} (s : State) (i : Fin 32) (w : BitVec VL) : (writeVZero s i w).cr4 = s.cr4 := rfl
@[simp] theorem writeVZero_xcr0 {VL : Nat} (s : State) (i : Fin 32) (w : BitVec VL) : (writeVZero s i w).xcr0 = s.xcr0 := rfl
@[simp] theorem writeVZero_xinuse {VL : Nat} (s : State) (i : Fin 32) (w : BitVec VL) : (writeVZero s i w).xinuse = xinuseAfterWrite s := rfl
@[simp] theorem writeVZero_eflags {VL : Nat} (s : State) (i : Fin 32) (w : BitVec VL) : (writeVZero s i w).eflags = s.eflags := rfl
@[simp] theorem writeVZero_segs {VL : Nat} (s : State) (i : Fin 32) (w : BitVec VL) : (writeVZero s i w).segs = s.segs := rfl
@[simp] theorem writeVZero_dr {VL : Nat} (s : State) (i : Fin 32) (w : BitVec VL) : (writeVZero s i w).dr = s.dr := rfl
@[simp] theorem writeVZero_dr7 {VL : Nat} (s : State) (i : Fin 32) (w : BitVec VL) : (writeVZero s i w).dr7 = s.dr7 := rfl
@[simp] theorem writeVZero_mode {VL : Nat} (s : State) (i : Fin 32) (w : BitVec VL) : (writeVZero s i w).mode = s.mode := rfl
@[simp] theorem writeVZero_features {VL : Nat} (s : State) (i : Fin 32) (w : BitVec VL) : (writeVZero s i w).features = s.features := rfl
@[simp] theorem writeVZero_pages {VL : Nat} (s : State) (i : Fin 32) (w : BitVec VL) : (writeVZero s i w).pages = s.pages := rfl
@[simp] theorem writeVZero_regions {VL : Nat} (s : State) (i : Fin 32) (w : BitVec VL) : (writeVZero s i w).regions = s.regions := rfl
@[simp] theorem writeVZero_pending {VL : Nat} (s : State) (i : Fin 32) (w : BitVec VL) : (writeVZero s i w).pending = s.pending := rfl
@[simp] theorem writeVZero_landed {VL : Nat} (s : State) (i : Fin 32) (w : BitVec VL) : (writeVZero s i w).landed = s.landed := rfl
@[simp] theorem writeVZero_mem {VL : Nat} (s : State) (i : Fin 32) (w : BitVec VL) : (writeVZero s i w).mem = s.mem := rfl
@[simp] theorem writeVZero_draws {VL : Nat} (s : State) (i : Fin 32) (w : BitVec VL) : (writeVZero s i w).draws = s.draws := rfl

end Sys2Proof.Machine
end

