-- ==== Sys2Proof/Laws/Memory.lean ====
section
/-! SUPPORT. Memory: a read after a write, and that every memory operation keeps the canonical form. -/

namespace Sys2Proof.Machine

/-- The canonical form of a non-empty memory, taken apart. -/
theorem memory_wf_cons (c : Host.Cell) (m : Memory) :
    Memory.wf (c :: m) = true ↔ c.2 ≠ unlistedByte ∧ (∀ d ∈ m, c.1 < d.1) ∧ Memory.wf m = true := by
  simp [Memory.wf, and_assoc]

/-- An address below every listed one reads as unlisted. -/
theorem readByte_of_below (m : Memory) (n : Nat) (h : ∀ d ∈ m, n < d.1) : readByte m n = unlistedByte := by
  induction m with
  | nil => rfl
  | cons c m ih =>
    have hc : n < c.1 := h c (by simp)
    simp only [readByte]
    rw [if_neg (by omega)]
    exact ih (fun d hd => h d (by simp [hd]))

/-- Every address a write leaves listed was listed or is the written one. -/
theorem mem_writeByte (m : Memory) (n : Nat) (b : Byte) (d : Host.Cell) (h : d ∈ writeByte m n b) :
    d ∈ m ∨ d = (n, b) := by
  induction m with
  | nil =>
    simp only [writeByte] at h
    split at h <;> simp_all
  | cons c m ih =>
    simp only [writeByte] at h
    split at h
    · split at h <;> simp_all ; tauto
    · split at h
      · split at h <;> simp_all ; tauto
      · simp only [List.mem_cons] at h ⊢
        rcases h with h | h
        · simp [h]
        · rcases ih h with h | h <;> simp [h]

/-- A write keeps the canonical form. -/
theorem memory_wf_writeByte (m : Memory) (n : Nat) (b : Byte) (h : Memory.wf m = true) :
    Memory.wf (writeByte m n b) = true := by
  induction m with
  | nil =>
    simp only [writeByte]
    split
    · rfl
    · simp_all [Memory.wf]
  | cons c m ih =>
    obtain ⟨hc, hlt, hm⟩ := (memory_wf_cons c m).1 h
    simp only [writeByte]
    split
    · rename_i hn
      split
      · exact h
      · rename_i hb
        refine (memory_wf_cons _ _).2 ⟨hb, ?_, h⟩
        intro d hd
        rcases List.mem_cons.1 hd with rfl | hd
        · exact hn
        · exact Nat.lt_trans hn (hlt d hd)
    · split
      · rename_i hn
        split
        · exact hm
        · rename_i hb
          exact (memory_wf_cons _ _).2 ⟨hb, fun d hd => hn ▸ hlt d hd, hm⟩
      · refine (memory_wf_cons _ _).2 ⟨hc, ?_, ih hm⟩
        intro d hd
        rcases mem_writeByte m n b d hd with hd | rfl
        · exact hlt d hd
        · simp only; omega

/-- A read after a write gives the written byte there, and elsewhere what it gave before. -/
theorem readByte_writeByte (m : Memory) (n : Nat) (b : Byte) (a : Nat) (h : Memory.wf m = true) :
    readByte (writeByte m n b) a = if a = n then b else readByte m a := by
  induction m with
  | nil =>
    by_cases ha : a = n <;> by_cases hb : b = unlistedByte <;> simp [writeByte, readByte, ha, hb, eq_comm]
    intro h; exact absurd h.symm ha
  | cons c m ih =>
    obtain ⟨hc, hlt, hm⟩ := (memory_wf_cons c m).1 h
    simp only [writeByte]
    split
    · rename_i hn
      have hbelow : readByte (c :: m) n = unlistedByte := by
        apply readByte_of_below
        intro d hd
        rcases List.mem_cons.1 hd with rfl | hd
        · exact hn
        · exact Nat.lt_trans hn (hlt d hd)
      split
      · rename_i hb
        by_cases ha : a = n
        · rw [if_pos ha, ha, hbelow, hb]
        · rw [if_neg ha]
      · by_cases ha : a = n
        · simp [readByte, ha]
        · rw [if_neg ha, readByte, if_neg (by omega)]
    · split
      · rename_i hn
        have hbelow : readByte m n = unlistedByte := readByte_of_below m n (fun d hd => by have := hlt d hd; omega)
        split
        · rename_i hb
          by_cases ha : a = n
          · rw [if_pos ha, ha, hbelow, hb]
          · rw [if_neg ha, readByte, if_neg (by omega)]
        · by_cases ha : a = n
          · simp [readByte, ha]
          · rw [if_neg ha, readByte, readByte, if_neg (by omega), if_neg (by omega)]
      · simp only [readByte]
        by_cases hca : c.1 = a
        · rw [if_pos hca, if_pos hca, if_neg (by omega)]
        · rw [if_neg hca, if_neg hca, ih hm]

/-- Storing instruction bytes keeps the canonical form. -/
theorem memory_wf_storeFrom (bs : List Byte) (s : State) (k : Nat) (h : Memory.wf s.mem = true) :
    Memory.wf (storeFrom s k bs).mem = true := by
  induction bs generalizing s k with
  | nil => exact h
  | cons b bs ih =>
    simp only [storeFrom]
    split
    · exact h
    · exact ih _ _ (memory_wf_writeByte _ _ _ h)

/-- Storing instruction bytes changes memory alone. -/
theorem storeFrom_mem_only (bs : List Byte) (s : State) (k : Nat) :
    storeFrom s k bs = { s with mem := (storeFrom s k bs).mem } := by
  induction bs generalizing s k with
  | nil => rfl
  | cons b bs ih =>
    simp only [storeFrom]
    split
    · rfl
    · rw [ih]

/-- Memory after reset is in canonical form. -/
theorem reset_mem_wf : Memory.wf State.reset.mem = true := rfl

/-- Placing a table word keeps the canonical form. -/
theorem memory_wf_withFetchWord (s : State) (nbits w : Nat) (h : Memory.wf s.mem = true) :
    Memory.wf (s.withFetchWord nbits w).mem = true :=
  memory_wf_storeFrom _ _ _ h

/-- Bytes listed before a memory are read from the list. -/
theorem readByte_listed (m : Memory) (f : Nat → Byte) (as : List Nat) (a : Nat) :
    readByte (as.map (fun c => (c, f c)) ++ m) a = if a ∈ as then f a else readByte m a := by
  induction as with
  | nil => simp
  | cons c as ih =>
    simp only [List.map_cons, List.cons_append, readByte, ih]
    by_cases h : c = a
    · subst h; simp
    · simp [h, Ne.symm h]

end Sys2Proof.Machine
end

