-- ==== Sys2Proof/Laws/Ops.lean ====
section
/-! SUPPORT. What the register operations, the program counter and byte order can do. -/

namespace Sys2Proof.Machine

/-- The program counter moved on in `Long64`. -/
theorem pcPlus_long64 (s : State) (n : Nat) (h : s.mode = .long64) : pcPlus s n = s.pc + BitVec.ofNat 64 n := by
  simp [pcPlus, h]

/-- The program counter moved on in `Prot32`. -/
theorem pcPlus_prot32 (s : State) (n : Nat) (h : s.mode = .prot32) :
    pcPlus s n = low32 (s.pc + BitVec.ofNat 64 n) := by
  simp [pcPlus, h]

/-- A 32-bit address is below 4 GiB. -/
theorem low32_toNat_lt (a : Qword) : (low32 a).toNat < 2 ^ 32 := by
  simp only [low32, BitVec.toNat_setWidth]
  omega

/-- One entry of a register file after one was written. -/
theorem vector_get_set {α : Type} {n : Nat} (v : Vector α n) (i j : Fin n) (w : α) :
    (v.set i.val w i.isLt).get j = if j = i then w else v.get j := by
  rw [Vector.get_eq_getElem, Vector.get_eq_getElem, Vector.getElem_set]
  by_cases h : j = i
  · simp [h]
  · rw [if_neg h, if_neg (fun e => h (Fin.ext e.symm))]

/-- A vector register read after a vector register was written. -/
theorem writeV_get (s : State) (i j : Fin 32) (w : VReg) :
    (writeV s i w).v.get j = if j = i then w else s.v.get j :=
  vector_get_set s.v i j w

/-- A physical x87 register read after an MMX register was written. -/
theorem writeMm_get (s : State) (i j : Fin 8) (w : Qword) :
    (writeMm s i w).r.get j = if j = i then 0xFFFF#16 ++ w else s.r.get j :=
  vector_get_set s.r i j _

/-- The written MMX register reads back. -/
theorem readMm_writeMm (s : State) (i : Fin 8) (w : Qword) : readMm (writeMm s i w) i = w := by
  simp only [readMm, writeMm_get, if_true]
  apply BitVec.eq_of_getLsbD_eq
  intro n hn
  rw [BitVec.getLsbD_setWidth, BitVec.getLsbD_append]
  simp [hn]

/-- The low bits of a VEX or EVEX destination are the result. -/
theorem readV_writeVZero {VL : Nat} (s : State) (i : Fin 32) (w : BitVec VL) (h : VL ≤ 512) :
    readV VL (writeVZero s i w) i = w := by
  simp only [readV, writeVZero, writeV_get, if_true]
  apply BitVec.eq_of_getLsbD_eq
  intro n hn
  simp [hn, Nat.lt_of_lt_of_le hn h]

/-- The bits of a VEX or EVEX destination above the result are 0. -/
theorem writeVZero_above {VL : Nat} (s : State) (i : Fin 32) (w : BitVec VL) (n : Nat) (h : VL ≤ n) :
    ((writeVZero s i w).v.get i).getLsbD n = false := by
  rw [writeVZero, writeV_get, if_pos rfl, BitVec.getLsbD_setWidth, BitVec.getLsbD_of_ge _ _ h, Bool.and_false]

/-- A bit of a kept register with a new low part. -/
theorem keepUpper_getLsbD (old : VReg) (low : BitVec 128) (n : Nat) :
    (keepUpper old low).getLsbD n = if n < 128 then low.getLsbD n else old.getLsbD n := by
  simp only [keepUpper, BitVec.getLsbD_append]
  split
  · rfl
  · rename_i h
    simp only [BitVec.getLsbD_extractLsb']
    by_cases h2 : n - 128 < 384
    · simp [h2, Nat.add_sub_cancel' (Nat.le_of_not_lt h)]
    · simp [h2, BitVec.getLsbD_of_ge old n (by omega)]

/-- The low bits of a legacy-SSE destination are the result. -/
theorem readV_writeXmmKeep (s : State) (i : Fin 32) (w : BitVec 128) : readV 128 (writeXmmKeep s i w) i = w := by
  simp only [readV, writeXmmKeep, writeV_get, if_true]
  apply BitVec.eq_of_getLsbD_eq
  intro n hn
  simp [hn, keepUpper_getLsbD]

/-- The bits of a legacy-SSE destination above 127 are kept. -/
theorem writeXmmKeep_above (s : State) (i : Fin 32) (w : BitVec 128) (n : Nat) (h : 128 ≤ n) :
    ((writeXmmKeep s i w).v.get i).getLsbD n = (s.v.get i).getLsbD n := by
  simp only [writeXmmKeep, writeV_get, if_true, keepUpper_getLsbD]
  rw [if_neg (by omega)]

/-- `TOS` is 0 after `clearTop`, and the other status bits are kept. -/
theorem clearTop_getLsbD (w : BitVec 16) (n : Nat) :
    (clearTop w).getLsbD n = (w.getLsbD n && !decide (11 ≤ n ∧ n ≤ 13)) := by
  by_cases hn : n < 16
  · have mask : ∀ n < 16, (0xC7FF : BitVec 16).getLsbD n = !decide (11 ≤ n ∧ n ≤ 13) := by decide
    rw [clearTop, BitVec.getLsbD_and, mask n hn]
  · simp [BitVec.getLsbD_of_ge _ _ (Nat.le_of_not_lt hn)]

/-- A little-endian number is below the power of its length. -/
theorem littleEndian_lt (bs : List Byte) : littleEndian bs < 2 ^ (8 * bs.length) := by
  induction bs with
  | nil => simp [littleEndian]
  | cons b bs ih =>
    have hb := b.isLt
    rw [List.length_cons, Nat.mul_succ, Nat.pow_add]
    simp only [littleEndian]
    omega

/-- Byte `k` of a little-endian number is the byte at index `k` (20_memory R84). -/
theorem littleEndian_byte (bs : List Byte) (w k : Nat) (hw : 8 * bs.length = w) (hk : k < bs.length) :
    (BitVec.ofNat w (littleEndian bs)).extractLsb' (8 * k) 8 = bs[k] := by
  apply BitVec.eq_of_toNat_eq
  have hlt := littleEndian_lt bs
  rw [hw] at hlt
  simp only [BitVec.extractLsb'_toNat, BitVec.toNat_ofNat, Nat.mod_eq_of_lt hlt, Nat.shiftRight_eq_div_pow]
  clear hw hlt
  induction bs generalizing k with
  | nil => simp at hk
  | cons b bs ih =>
    have hb := b.isLt
    cases k with
    | zero => simp [littleEndian]; omega
    | succ k =>
      have hk' : k < bs.length := by simpa using hk
      have := ih k hk'
      simp only [littleEndian, Nat.mul_succ, List.getElem_cons_succ]
      rw [Nat.add_comm (8 * k) 8, Nat.pow_add, ← Nat.div_div_eq_div_mul]
      have h8 : (b.toNat + 256 * littleEndian bs) / 2 ^ 8 = littleEndian bs := by omega
      rw [h8]; exact this

end Sys2Proof.Machine
end

