-- ==== Sys2Proof/Laws/Writers.lean ====
section
/-! SUPPORT. How writes of other processors become visible. -/

namespace Sys2Proof.Machine

open Sys2Proof.Safety

/-- A choice from a list is one of its members. -/
theorem pick_mem {α : Type} (c : Nat) (x : α) (xs : List α) : pick c x xs ∈ x :: xs := by
  simp only [pick]
  have h : c % (xs.length + 1) < (x :: xs).length := by
    simpa using Nat.mod_lt _ (Nat.succ_pos _)
  rw [List.getD_eq_getElem _ _ h]
  exact List.getElem_mem h

/-- What `mayLand` asks. -/
theorem mayLand_iff (ps : List OtherWrite) (w : OtherWrite) :
    mayLand ps w = true ↔ ps.find? (fun u => u == w || keepsOrder u w) = some w ∧ ∀ u ∈ ps, u.id ∉ w.after := by
  simp [mayLand]

/-- When the search in `mayLand` finds the write: it is pending and nothing before its first place keeps the order with it. -/
theorem mayLand_first_iff (ps : List OtherWrite) (w : OtherWrite) :
    ps.find? (fun u => u == w || keepsOrder u w) = some w ↔
      ∃ x y, ps = x ++ w :: y ∧ ∀ u ∈ x, u ≠ w ∧ keepsOrder u w = false := by
  rw [List.find?_eq_some_iff_append]
  simp

/-- One landing after another. -/
theorem lands_trans {ps ls ps₁ ls₁ ps₂ ls₂ : List OtherWrite} (h : Lands ps ls ps₁ ls₁) (g : Lands ps₁ ls₁ ps₂ ls₂) :
    Lands ps ls ps₂ ls₂ := by
  induction g with
  | none => exact h
  | more _ first causal ih => exact .more ih first causal

/-- What was visible stays so. -/
theorem lands_suffix {ps ls ps' ls' : List OtherWrite} (h : Lands ps ls ps' ls') : ls <:+ ls' := by
  induction h with
  | none => exact List.suffix_refl _
  | more _ _ _ ih => exact ih.trans (List.suffix_cons _ _)

/-- Without a pending write nothing lands. -/
theorem lands_nothing {ls ps' ls' : List OtherWrite} (h : Lands [] ls ps' ls') : ps' = [] ∧ ls' = ls := by
  induction h with
  | none => exact ⟨rfl, rfl⟩
  | more _ first _ ih => simp [ih.1] at first

/-- One step of `landFrom`: it is over, or one write that may land does. -/
theorem landFrom_succ (draws n : Nat) (ps ls : List OtherWrite) :
    landFrom draws (n + 1) ps ls = (ps, ls) ∨
      ∃ w, mayLand ps w = true ∧ landFrom draws (n + 1) ps ls = landFrom draws n (ps.erase w) (w :: ls) := by
  simp only [landFrom]
  split
  · exact .inl rfl
  · rename_i w ws hw
    split
    · have hm := pick_mem (Config.landingChoice draws n) w ws
      rw [← hw] at hm
      exact .inr ⟨_, (List.mem_filter.1 hm).2, rfl⟩
    · exact .inl rfl

/-- Every moment of `landFrom` is reached from its begin, and its end from there. -/
theorem landFrom_moment (draws n : Nat) (ps ls : List OtherWrite) (k : Nat)
    (hk : k ≤ (landFrom draws n ps ls).2.length - ls.length) :
    ∃ ps', Lands ps ls ps' ((landFrom draws n ps ls).2.drop k) ∧
      Lands ps' ((landFrom draws n ps ls).2.drop k) (landFrom draws n ps ls).1 (landFrom draws n ps ls).2 := by
  induction n generalizing ps ls k with
  | zero =>
    have : k = 0 := by simpa [landFrom] using hk
    subst this
    exact ⟨ps, .none, .none⟩
  | succ n ih =>
    rcases landFrom_succ draws n ps ls with h | ⟨w, hw, h⟩
    · rw [h] at hk ⊢
      have : k = 0 := by simpa using hk
      subst this
      exact ⟨ps, .none, .none⟩
    · rw [h] at hk ⊢
      have one : Lands ps ls (ps.erase w) (w :: ls) :=
        .more .none ((mayLand_iff ps w).1 hw).1 ((mayLand_iff ps w).1 hw).2
      by_cases hle : k ≤ (landFrom draws n (ps.erase w) (w :: ls)).2.length - (w :: ls).length
      · obtain ⟨ps', h1, h2⟩ := ih (ps.erase w) (w :: ls) k hle
        exact ⟨ps', lands_trans one h1, h2⟩
      · obtain ⟨ps₀, h1, h2⟩ := ih (ps.erase w) (w :: ls) 0 (Nat.zero_le _)
        have all := lands_trans one (lands_trans h1 h2)
        obtain ⟨pre, hpre⟩ := lands_suffix all
        have hlen := congrArg List.length hpre
        simp only [List.length_append, List.length_cons] at hlen hle
        have hk' : k = pre.length := by omega
        rw [hk', ← hpre, List.drop_left]
        rw [hpre]
        exact ⟨ps, .none, all⟩

/-- What a step makes visible is what R101 allows. -/
theorem landing_lands (s : State) : Lands s.pending s.landed (landing s).1 (landing s).2 := by
  obtain ⟨_, h1, h2⟩ := landFrom_moment s.draws s.pending.length s.pending s.landed 0 (Nat.zero_le _)
  exact lands_trans h1 h2

/-- Without a pending write nothing becomes visible. -/
theorem landing_alone (s : State) (h : s.pending = []) : landing s = ([], s.landed) := by
  simp only [landing, h]
  rfl

/-- Not more is left unseen than a step makes visible. -/
theorem unseen_le (s : State) (fresh key : Nat) : unseen s fresh key ≤ fresh := by
  cases fresh with
  | zero => exact Nat.le_refl _
  | succ f => exact Nat.le_of_lt_succ (Nat.mod_lt _ (Nat.succ_pos _))

/-- A byte is read at a moment of the step. -/
theorem landedSeen_moment (s : State) (pl : Place) (n a : Nat) :
    ∃ ps', Lands s.pending s.landed ps' (landedSeen s pl n a) ∧
      Lands ps' (landedSeen s pl n a) (landing s).1 (landing s).2 :=
  landFrom_moment s.draws s.pending.length s.pending s.landed _ (unseen_le _ _ _)

/-- The bytes of an atomic read are read at one moment. -/
theorem landedSeen_atomic (s : State) (pl : Place) (n a b : Nat) (h : atomicRead s pl n = true) :
    landedSeen s pl n a = landedSeen s pl n b := by
  simp only [landedSeen, h, if_true]

/-- Without a pending write a data read gives the byte of the last visible write. -/
theorem dataByte_alone (s : State) (pl : Place) (n a : Nat) (h : s.pending = []) :
    dataByte s pl n a = seenByte s.mem s.landed a := by
  simp only [dataByte, landedSeen, landing_alone s h, Nat.sub_self]
  rfl

/-- Outside every visible write, what is seen is memory. -/
theorem seenByte_outside (m : Memory) (ls : List OtherWrite) (a : Nat)
    (h : ∀ w ∈ ls, ¬(w.address ≤ a ∧ a < w.address + w.bytes.length)) : seenByte m ls a = readByte m a := by
  induction ls with
  | nil => rfl
  | cons w ls ih => rw [seenByte, if_neg (h w (by simp)), ih (fun v hv => h v (by simp [hv]))]

/-- If each address is seen after some of the writes listed, one memory reads so at every address. -/
theorem exists_memory_seen (m : Memory) (all : List OtherWrite) (seen : Nat → List OtherWrite)
    (h : ∀ a, seen a <:+ all) : ∃ m', ∀ a, readByte m' a = seenByte m (seen a) a := by
  refine ⟨(all.flatMap fun w => (List.range w.bytes.length).map (w.address + ·)).map
    (fun c => (c, seenByte m (seen c) c)) ++ m, fun a => ?_⟩
  rw [readByte_listed]
  split
  · rfl
  · rename_i hn
    rw [seenByte_outside]
    intro w hw hc
    apply hn
    simp only [List.mem_flatMap, List.mem_map, List.mem_range]
    exact ⟨w, (h a).subset hw, a - w.address, by omega, by omega⟩

end Sys2Proof.Machine
end

