-- ==== Sys2Proof/Laws/Operands.lean ====
section
/-! SUPPORT. What reading a memory operand can do. -/

namespace Sys2Proof.Machine

open Sys2Proof.Safety

/-- The bytes whose faults count are bytes of the operand. -/
theorem countedBytes_lt (s : State) (n : Nat) (masked : Bool) (active : Nat → Bool) (k : Nat)
    (h : k ∈ countedBytes s n masked active) : k < n :=
  List.mem_range.1 (List.mem_filter.1 h).1

/-- Without a writemask every byte counts. -/
theorem countedBytes_unmasked (s : State) (n : Nat) (active : Nat → Bool) :
    countedBytes s n false active = List.range n := by
  simp [countedBytes]

/-- The bytes of elements in use always count. -/
theorem countedBytes_active (s : State) (n : Nat) (masked : Bool) (active : Nat → Bool) (k : Nat) (hk : k < n)
    (ha : active k = true) : k ∈ countedBytes s n masked active := by
  simp [countedBytes, hk, ha]

/-- A byte that does not page-fault has a physical address. -/
theorem bytePageFault_none_iff (s : State) (pl : Place) (k : Nat) :
    bytePageFault s pl k = none ↔ ∃ a, translate s (byteLinear s pl k) = .ok a := by
  simp only [bytePageFault]
  split <;> simp_all

/-- No byte counted takes a page fault. -/
theorem operandPageFault_none_iff (s : State) (pl : Place) (ks : List Nat) :
    operandPageFault s pl ks = none ↔ ∀ k ∈ ks, bytePageFault s pl k = none := by
  simp only [operandPageFault]
  split
  · simp_all
  · rename_i f fs h
    constructor
    · intro h'; simp at h'
    · intro hall
      rw [List.filterMap_eq_nil_iff.2 hall] at h
      simp at h

/-- The page fault reported is that of one of the bytes counted. -/
theorem operandPageFault_some (s : State) (pl : Place) (ks : List Nat) (f : Fault)
    (h : operandPageFault s pl ks = some f) :
    ∃ k ∈ ks, ∃ code a, bytePageFault s pl k = some (code, a) ∧ f = .pageFault code a := by
  simp only [operandPageFault] at h
  split at h
  · simp at h
  · rename_i g gs hg
    have hm := pick_mem (Config.pageFaultChoice s.draws) g gs
    rw [← hg] at hm
    obtain ⟨k, hk, hk'⟩ := List.mem_filterMap.1 hm
    exact ⟨k, hk, (pick (Config.pageFaultChoice s.draws) g gs).1, (pick (Config.pageFaultChoice s.draws) g gs).2, hk',
      (Option.some.inj h).symm⟩

/-- No condition of priority level 6 holds. -/
theorem levelSix_none_iff (s : State) (a p : Option Fault) : levelSix s a p = none ↔ a = none ∧ p = none := by
  cases a <;> cases p <;> simp [levelSix]

/-- The condition reported at priority level 6 is one that holds. -/
theorem levelSix_some (s : State) (a p : Option Fault) (f : Fault) (h : levelSix s a p = some f) :
    a = some f ∨ p = some f := by
  cases a with
  | none => cases p <;> simp_all [levelSix]
  | some x =>
    cases p with
    | none => simp_all [levelSix]
    | some y =>
      have hm := pick_mem (Config.levelSixChoice s.draws) x [y]
      simp only [levelSix, Option.some.injEq] at h
      rw [h] at hm
      simp only [List.mem_cons, List.not_mem_nil, or_false] at hm
      rcases hm with hm | hm <;> simp [hm]

/-- Everything that a memory read which answers says of its operand. -/
theorem memRead_ok (s : State) (pl : Place) (n : Nat) (rule : AlignRule) (masked : Bool) (active : Nat → Bool)
    (bytes : List Byte) (h : memRead s pl n rule masked active = .ok bytes) :
    bytes = (List.range n).map (byteValue s pl n) ∧ alignmentStop s pl n rule = .ok none ∧
      (∀ k ∈ countedBytes s n masked active, badByte s pl k = false ∧ bytePageFault s pl k = none) ∧
      (∀ k < n, byteRegion s pl k = none) := by
  simp only [memRead] at h
  split at h
  · cases h
  · rename_i hbad
    split at h
    · cases h
    · rename_i al hal
      split at h
      · cases h
      · rename_i h6
        split at h
        · cases h
        · rename_i hreg
          obtain ⟨ha, hp⟩ := (levelSix_none_iff _ _ _).1 h6
          refine ⟨(Except.ok.inj h).symm, by rw [hal, ha], ?_, ?_⟩
          · intro k hk
            refine ⟨?_, (operandPageFault_none_iff _ _ _).1 hp k hk⟩
            simpa using fun hb => hbad (List.any_eq_true.2 ⟨k, hk, hb⟩)
          · intro k hk
            exact List.findSome?_eq_none_iff.1 hreg k (List.mem_range.2 hk)

/-- A segment lacks just the offsets outside it. -/
theorem hasOffset_false_iff (g : SegReg) (offset : Qword) :
    hasOffset g offset = false ↔ OutsideSegment g offset.toNat := by
  unfold hasOffset OutsideSegment
  cases g.bounds with
  | expandUp => simp
  | expandDown big =>
    simp only [Bool.and_eq_false_iff, decide_eq_false_iff_not]
    omega
  | ranges rs =>
    simp only [List.any_eq_false, Bool.and_eq_true, decide_eq_true_eq]
    exact forall₂_congr fun r _ => by omega

/-- The `Prot32` segment checks fail just for a null selector, a segment that cannot be read, an offset outside it. -/
theorem segmentViolation_iff (g : SegReg) (offset : Qword) :
    segmentViolation g offset = true ↔
      g.selector.extractLsb' 2 14 = 0 ∨ g.readable = false ∨ OutsideSegment g offset.toNat := by
  simp [segmentViolation, nullSelector, ← hasOffset_false_iff, or_assoc]

/-- A byte that is readable ordinary memory, and what it holds. -/
theorem byteIs_value (s : State) (pl : Place) (n k : Nat) (b : Byte) (h : ByteIs s pl n k b) :
    badByte s pl k = false ∧ bytePageFault s pl k = none ∧ byteRegion s pl k = none ∧ byteValue s pl n k = b := by
  obtain ⟨hb, a, ht, hr, hv⟩ := h
  simp [hb, byteRegion, byteValue, bytePhysical, bytePageFault, ht, hr, hv]

/-- A memory read answers where every byte is readable ordinary memory and the alignment condition is met. -/
theorem memRead_of_readable (s : State) (pl : Place) (n : Nat) (rule : AlignRule) (masked : Bool) (active : Nat → Bool)
    (hb : ∀ k < n, ∃ b, ByteIs s pl n k b) (ha : alignmentStop s pl n rule = .ok none) :
    memRead s pl n rule masked active = .ok ((List.range n).map (byteValue s pl n)) := by
  have hc : ∀ k ∈ countedBytes s n masked active, badByte s pl k = false ∧ bytePageFault s pl k = none := by
    intro k hk
    obtain ⟨b, h⟩ := hb k (countedBytes_lt _ _ _ _ _ hk)
    exact ⟨(byteIs_value _ _ _ _ _ h).1, (byteIs_value _ _ _ _ _ h).2.1⟩
  have hbad : (countedBytes s n masked active).any (badByte s pl) = false := by
    rw [List.any_eq_false]
    intro k hk
    simp [(hc k hk).1]
  have hpf : operandPageFault s pl (countedBytes s n masked active) = none :=
    (operandPageFault_none_iff _ _ _).2 fun k hk => (hc k hk).2
  have hreg : (List.range n).findSome? (byteRegion s pl) = none := by
    rw [List.findSome?_eq_none_iff]
    intro k hk
    obtain ⟨b, h⟩ := hb k (List.mem_range.1 hk)
    exact (byteIs_value _ _ _ _ _ h).2.2.1
  have h6 : levelSix s none (operandPageFault s pl (countedBytes s n masked active)) = none := by
    rw [hpf]; rfl
  simp only [memRead, hbad, ha, h6, hreg]
  rfl

/-- The number the bytes of a readable operand make. -/
theorem operandIs_value {w : Nat} (s : State) (pl : Place) (v : BitVec w) (hw : 8 * (w / 8) = w)
    (h : OperandIs s pl v) : BitVec.ofNat w (littleEndian ((List.range (w / 8)).map (byteValue s pl (w / 8)))) = v := by
  have hlen : ((List.range (w / 8)).map (byteValue s pl (w / 8))).length = w / 8 := by simp
  apply BitVec.eq_of_getLsbD_eq
  intro n hn
  have hk : n / 8 < w / 8 := by omega
  have hbyte := littleEndian_byte ((List.range (w / 8)).map (byteValue s pl (w / 8))) w (n / 8) (by rw [hlen]; exact hw)
    (by rw [hlen]; exact hk)
  have hv : ((List.range (w / 8)).map (byteValue s pl (w / 8)))[n / 8]'(by rw [hlen]; exact hk)
      = v.extractLsb' (8 * (n / 8)) 8 := by
    simpa using (byteIs_value _ _ _ _ _ (h (n / 8) hk)).2.2.2
  rw [hv] at hbyte
  have := congrArg (fun x => x.getLsbD (n % 8)) hbyte
  simpa [Nat.mod_lt, Nat.div_add_mod] using this

/-- A readable operand answers its value. -/
theorem memRead_of_operandIs {w : Nat} (s : State) (pl : Place) (v : BitVec w) (rule : AlignRule) (masked : Bool)
    (active : Nat → Bool) (hw : 8 * (w / 8) = w) (h : OperandIs s pl v)
    (ha : alignmentStop s pl (w / 8) rule = .ok none) :
    ∃ bytes, memRead s pl (w / 8) rule masked active = .ok bytes ∧ BitVec.ofNat w (littleEndian bytes) = v :=
  ⟨_, memRead_of_readable s pl (w / 8) rule masked active (fun k hk => ⟨_, h k hk⟩) ha, operandIs_value s pl v hw h⟩

/-- The alignment condition of rows 2 to 4 is met. -/
theorem alignmentStop_sixteen (s : State) (pl : Place) (n : Nat) (h : Aligned16 s pl) :
    alignmentStop s pl n .sixteen = .ok none := by
  simp [alignmentStop, unaligned, h.1, h.2]

/-- The alignment condition of row 1 is met. -/
theorem alignmentStop_eight (s : State) (pl : Place) (n : Nat) (h : AcceptedByAc s pl 8) :
    alignmentStop s pl n .eight = .ok none := by
  cases hc : alignCheckEnabled s <;> simp [alignmentStop, unaligned, hc]
  exact h hc

/-- The alignment condition of rows 5 to 22 is met. -/
theorem alignmentStop_free (s : State) (pl : Place) (n : Nat) (h : AcceptedByAc s pl n) :
    alignmentStop s pl n .free = .ok none := by
  cases hc : alignCheckEnabled s <;> simp [alignmentStop, unaligned, hc]
  exact h hc

end Sys2Proof.Machine
end

