-- ==== Sys2Proof/Laws/Exec.lean ====
section
/-! SUPPORT. What running a form can do: it answers a next state exactly where its check passes and its second source can be
read, and the next state is the form's result. -/

namespace Sys2Proof.Machine

open Sys2Proof.Safety

/-- A stop is no next state. -/
theorem stop_not_next (e : Stop) (t : State) : e.outcome ≠ .next t := by
  cases e <;> simp [Stop.outcome, raise]

/-- Row 1 answers a next state. -/
theorem runMmx_next_iff (N : Nat) (o : MmxOperands) (len : Nat) (s t : State) :
    runMmx N o len s = .next t ↔
      checkMmx o.pfx s = none ∧ ∃ b, mmxSource o len s = .ok b ∧ t = mmxResult N o len b s := by
  simp only [runMmx]
  cases checkMmx o.pfx s with
  | some e => simp [stop_not_next]
  | none =>
    cases mmxSource o len s with
    | error e => simp [stop_not_next]
    | ok b => simp [eq_comm]

/-- A legacy form on vector registers answers a next state. -/
theorem runSse_next_iff (N : Nat) (flag : Feature) (o : SseOperands) (len : Nat) (s t : State) :
    runSse N flag o len s = .next t ↔
      checkSse flag o.pfx s = none ∧ ∃ b, sseSource o len s = .ok b ∧ t = sseResult N o len b s := by
  simp only [runSse]
  cases checkSse flag o.pfx s with
  | some e => simp [stop_not_next]
  | none =>
    cases sseSource o len s with
    | error e => simp [stop_not_next]
    | ok b => simp [eq_comm]

/-- A VEX form answers a next state. -/
theorem runVex_next_iff (N VL : Nat) (flag : Feature) (o : VexOperands) (len : Nat) (s t : State) :
    runVex N VL flag o len s = .next t ↔
      checkVex flag o.pfx s = none ∧ ∃ b, vexSource VL o len s = .ok b ∧ t = vexResult N VL o len b s := by
  simp only [runVex]
  cases checkVex flag o.pfx s with
  | some e => simp [stop_not_next]
  | none =>
    cases vexSource VL o len s with
    | error e => simp [stop_not_next]
    | ok b => simp [eq_comm]

/-- An EVEX form answers a next state. -/
theorem runEvex_next_iff (N VL : Nat) (flags : List Feature) (broadcast : Bool) (o : EvexOperands) (len : Nat)
    (s t : State) :
    runEvex N VL flags broadcast o len s = .next t ↔
      checkEvex flags broadcast o s = none ∧ ∃ b, evexSource N VL o len s = .ok b ∧ t = evexResult N VL o len b s := by
  simp only [runEvex]
  cases checkEvex flags broadcast o s with
  | some e => simp [stop_not_next]
  | none =>
    cases evexSource N VL o len s with
    | error e => simp [stop_not_next]
    | ok b => simp [eq_comm]

/-- A full-width operand that can be read answers its value. -/
theorem loadFull_of_operandIs (VL : Nat) (rule : AlignRule) (p : Prefixes) (len : Nat) (m : MemOperand) (s : State)
    (b : BitVec VL) (hw : 8 * (VL / 8) = VL) (h : OperandIs s (placeOf s p 1 len m) b)
    (ha : alignmentStop s (placeOf s p 1 len m) (VL / 8) rule = .ok none) :
    loadFull VL rule p len m s = .ok b := by
  obtain ⟨bytes, hr, hv⟩ := memRead_of_operandIs s _ b rule false (fun _ => true) hw h ha
  simp [loadFull, hr, hv]

/-- The second source of row 1, where it can be read. -/
theorem mmxSource_of_sourceIs (o : MmxOperands) (len : Nat) (s : State) (b : Qword) (h : MmxSourceIs o len s b) :
    mmxSource o len s = .ok b := by
  cases hs : o.src with
  | reg r => simp_all [MmxSourceIs, mmxSource]
  | mem m =>
    simp only [MmxSourceIs, hs] at h
    simp only [mmxSource, hs]
    exact loadFull_of_operandIs 64 .eight o.pfx len m s b rfl h.2 (alignmentStop_eight _ _ _ h.1)

/-- The second source of rows 2 to 4, where it can be read. -/
theorem sseSource_of_sourceIs (o : SseOperands) (len : Nat) (s : State) (b : BitVec 128) (h : SseSourceIs o len s b) :
    sseSource o len s = .ok b := by
  cases hs : o.src with
  | reg r => simp_all [SseSourceIs, sseSource]
  | mem m =>
    simp only [SseSourceIs, hs] at h
    simp only [sseSource, hs]
    exact loadFull_of_operandIs 128 .sixteen o.pfx len m s b rfl h.2 (alignmentStop_sixteen _ _ _ h.1)

/-- The second source of rows 5 to 10, where it can be read. -/
theorem vexSource_of_sourceIs (VL : Nat) (o : VexOperands) (len : Nat) (s : State) (b : BitVec VL)
    (hw : 8 * (VL / 8) = VL) (h : VexSourceIs VL o len s b) : vexSource VL o len s = .ok b := by
  cases hs : o.src with
  | reg r => simp_all [VexSourceIs, vexSource]
  | mem m =>
    simp only [VexSourceIs, hs] at h
    simp only [vexSource, hs]
    exact loadFull_of_operandIs VL .free o.pfx len m s b hw h.2 (alignmentStop_free _ _ _ h.1)

end Sys2Proof.Machine
end

