-- ==== Sys2Proof/Laws/PerInstr.lean ====
section
/-! SUPPORT. One lemma per constructor of Instr: the encoder writes as many bytes as the length of 30_encoding R147 says. -/

namespace Sys2Proof.Laws.EncodeLength

/-- The encoding of an instruction is as long as the instruction. -/
def Statement (i : Instr) : Prop := (encode i).length = i.length

/-- The prefix bytes and REX. -/
theorem prefixes_length (p : Prefixes) (x : BitVec 4) : (encodePrefixes p x).length = p.length := by
  obtain ⟨a, b, c, d, e, g, r⟩ := p
  simp only [encodePrefixes, Prefixes.length, List.length_append]
  have flag : ∀ (on : Bool) (y : Byte), (flagByte on y).length = on.toNat := by
    intro on y; cases on <;> rfl
  simp only [flag]
  cases g <;> rfl

/-- ModRM and what follows it. -/
theorem source_length {n : Nat} (reg : BitVec 3) (s : Source n) : (s.encode reg).length = 1 + s.length := by
  have disp : ∀ d : Disp, d.encode.length = d.length := by
    intro d; cases d <;> rfl
  cases s with
  | reg r => rfl
  | mem m =>
    cases m <;> simp [Source.encode, Source.length, MemOperand.encode, MemOperand.length, disp, encode32] <;> omega

/-- A legacy form. -/
theorem legacy_length {n : Nat} (p : Prefixes) (r : Bool) (op : List Byte) (reg : BitVec 3) (s : Source n) :
    (encodeLegacy p r op reg s).length = formLength op.length p s := by
  simp only [encodeLegacy, formLength, List.length_append, prefixes_length, source_length]
  omega

/-- A three-byte VEX form. -/
theorem vex3_length (map : BitVec 5) (l : Bool) (op : Byte) (o : VexOperands) :
    (encodeVex3 map l op o).length = formLength 4 o.pfx o.src := by
  simp only [encodeVex3, formLength, List.length_append, prefixes_length, source_length, List.length_cons,
    List.length_nil]
  omega

/-- A two-byte VEX form. -/
theorem vex2_length (l : Bool) (op : Byte) (o : VexOperands) :
    (encodeVex2 l op o).length = formLength 3 o.pfx o.src := by
  simp only [encodeVex2, formLength, List.length_append, prefixes_length, source_length, List.length_cons,
    List.length_nil]
  omega

/-- An EVEX form. -/
theorem evex_length (map : BitVec 2) (w : Bool) (ll : BitVec 2) (op : Byte) (o : EvexOperands) :
    (encodeEvex map w ll op o).length = formLength 5 o.pfx o.src := by
  simp only [encodeEvex, formLength, List.length_append, prefixes_length, source_length, List.length_cons,
    List.length_nil]
  omega

theorem pmaxswMmx (o : MmxOperands) : Statement (.pmaxswMmx o) := legacy_length _ _ _ _ _
theorem pmaxsbXmm (o : SseOperands) : Statement (.pmaxsbXmm o) := legacy_length _ _ _ _ _
theorem pmaxswXmm (o : SseOperands) : Statement (.pmaxswXmm o) := legacy_length _ _ _ _ _
theorem pmaxsdXmm (o : SseOperands) : Statement (.pmaxsdXmm o) := legacy_length _ _ _ _ _
theorem vpmaxsbVex128 (o : VexOperands) : Statement (.vpmaxsbVex128 o) := vex3_length _ _ _ _
theorem vpmaxswVex128 (o : VexOperands) : Statement (.vpmaxswVex128 o) := vex3_length _ _ _ _
theorem vpmaxswVex128Short (o : VexOperands) : Statement (.vpmaxswVex128Short o) := vex2_length _ _ _
theorem vpmaxsdVex128 (o : VexOperands) : Statement (.vpmaxsdVex128 o) := vex3_length _ _ _ _
theorem vpmaxsbVex256 (o : VexOperands) : Statement (.vpmaxsbVex256 o) := vex3_length _ _ _ _
theorem vpmaxswVex256 (o : VexOperands) : Statement (.vpmaxswVex256 o) := vex3_length _ _ _ _
theorem vpmaxswVex256Short (o : VexOperands) : Statement (.vpmaxswVex256Short o) := vex2_length _ _ _
theorem vpmaxsdVex256 (o : VexOperands) : Statement (.vpmaxsdVex256 o) := vex3_length _ _ _ _
theorem vpmaxsbEvex128 (o : EvexOperands) : Statement (.vpmaxsbEvex128 o) := evex_length _ _ _ _ _
theorem vpmaxsbEvex256 (o : EvexOperands) : Statement (.vpmaxsbEvex256 o) := evex_length _ _ _ _ _
theorem vpmaxsbEvex512 (o : EvexOperands) : Statement (.vpmaxsbEvex512 o) := evex_length _ _ _ _ _
theorem vpmaxswEvex128 (o : EvexOperands) : Statement (.vpmaxswEvex128 o) := evex_length _ _ _ _ _
theorem vpmaxswEvex256 (o : EvexOperands) : Statement (.vpmaxswEvex256 o) := evex_length _ _ _ _ _
theorem vpmaxswEvex512 (o : EvexOperands) : Statement (.vpmaxswEvex512 o) := evex_length _ _ _ _ _
theorem vpmaxsdEvex128 (o : EvexOperands) : Statement (.vpmaxsdEvex128 o) := evex_length _ _ _ _ _
theorem vpmaxsdEvex256 (o : EvexOperands) : Statement (.vpmaxsdEvex256 o) := evex_length _ _ _ _ _
theorem vpmaxsdEvex512 (o : EvexOperands) : Statement (.vpmaxsdEvex512 o) := evex_length _ _ _ _ _
theorem vpmaxsqEvex128 (o : EvexOperands) : Statement (.vpmaxsqEvex128 o) := evex_length _ _ _ _ _
theorem vpmaxsqEvex256 (o : EvexOperands) : Statement (.vpmaxsqEvex256 o) := evex_length _ _ _ _ _
theorem vpmaxsqEvex512 (o : EvexOperands) : Statement (.vpmaxsqEvex512 o) := evex_length _ _ _ _ _

end Sys2Proof.Laws.EncodeLength
end

