-- ==== Sys2Proof/Tests/Slice0.lean ====
section
/-! SUPPORT. Tests: every constructor's decoding from a word of spec/95_test_vectors.md (E-tables 1 to 4) or written from the
patterns of 30_encoding R145, the well-formedness checks, single steps of spec/95_test_vectors.md, and for each statement with
hypotheses a state and operands that meet them. -/

namespace Sys2Proof.Tests

open Sys2Proof.Machine Sys2Proof.Safety

set_option Elab.async false

/-! ## Decoding and encoding -/

/-- E-table 1, `pmaxsw mm0, [rbx]` -/
theorem test_decode_pmaxswMmx :
    decode .long64 [0x0F, 0xEE, 0x03] =
      .ok (.pmaxswMmx { pfx := noPrefixes, d := 0, src := .mem (.base 3 .none) }, []) ∧
    encode (.pmaxswMmx { pfx := noPrefixes, d := 0, src := .mem (.base 3 .none) }) =
      [0x0F, 0xEE, 0x03] := by
  decide +kernel

/-- E-table 1, `pmaxsb xmm15, fs:[r13 + 8*r14]` -/
theorem test_decode_pmaxsbXmm :
    decode .long64 [0x64, 0x66, 0x47, 0x0F, 0x38, 0x3C, 0x7C, 0xF5, 0x00] =
      .ok (.pmaxsbXmm { pfx := { noPrefixes with opsize := true, seg := some .fs, rex := true }, d := 15, src := .mem (.sib 3 (some 14) 13 (.disp8 0)) }, []) := by
  decide +kernel

/-- E-table 1, `pmaxsw xmm8, xmm9` -/
theorem test_decode_pmaxswXmm :
    decode .long64 [0x66, 0x45, 0x0F, 0xEE, 0xC1] =
      .ok (.pmaxswXmm { pfx := { noPrefixes with opsize := true, rex := true }, d := 8, src := .reg 9 }, []) ∧
    encode (.pmaxswXmm { pfx := { noPrefixes with opsize := true, rex := true }, d := 8, src := .reg 9 }) =
      [0x66, 0x45, 0x0F, 0xEE, 0xC1] := by
  decide +kernel

/-- E-table 1, `pmaxsd xmm2, [rax + 16]` -/
theorem test_decode_pmaxsdXmm :
    decode .long64 [0x66, 0x0F, 0x38, 0x3D, 0x50, 0x10] =
      .ok (.pmaxsdXmm { pfx := { noPrefixes with opsize := true }, d := 2, src := .mem (.base 0 (.disp8 0x10)) }, []) ∧
    encode (.pmaxsdXmm { pfx := { noPrefixes with opsize := true }, d := 2, src := .mem (.base 0 (.disp8 0x10)) }) =
      [0x66, 0x0F, 0x38, 0x3D, 0x50, 0x10] := by
  decide +kernel

/-- E-table 2, `vpmaxsb xmm1, xmm2, [eax]` -/
theorem test_decode_vpmaxsbVex128 :
    decode .long64 [0x67, 0xC4, 0xE2, 0x69, 0x3C, 0x08] =
      .ok (.vpmaxsbVex128 { pfx := { noPrefixes with addrsize := true }, d := 1, s1 := 2, src := .mem (.base 0 .none) }, []) ∧
    encode (.vpmaxsbVex128 { pfx := { noPrefixes with addrsize := true }, d := 1, s1 := 2, src := .mem (.base 0 .none) }) =
      [0x67, 0xC4, 0xE2, 0x69, 0x3C, 0x08] := by
  decide +kernel

/-- TV-B3 -/
theorem test_decode_vpmaxswVex128 :
    decode .long64 [0xC4, 0xE1, 0x71, 0xEE, 0xCB] =
      .ok (.vpmaxswVex128 { pfx := noPrefixes, d := 1, s1 := 1, src := .reg 3 }, []) ∧
    encode (.vpmaxswVex128 { pfx := noPrefixes, d := 1, s1 := 1, src := .reg 3 }) =
      [0xC4, 0xE1, 0x71, 0xEE, 0xCB] := by
  decide +kernel

/-- E-table 1, `vpmaxsw xmm1, xmm2, xmm3` -/
theorem test_decode_vpmaxswVex128Short :
    decode .long64 [0xC5, 0xE9, 0xEE, 0xCB] =
      .ok (.vpmaxswVex128Short { pfx := noPrefixes, d := 1, s1 := 2, src := .reg 3 }, []) ∧
    encode (.vpmaxswVex128Short { pfx := noPrefixes, d := 1, s1 := 2, src := .reg 3 }) =
      [0xC5, 0xE9, 0xEE, 0xCB] := by
  decide +kernel

/-- E-table 1, `vpmaxsd xmm1, xmm2, [rip + 305419896]` -/
theorem test_decode_vpmaxsdVex128 :
    decode .long64 [0xC4, 0xE2, 0x69, 0x3D, 0x0D, 0x78, 0x56, 0x34, 0x12] =
      .ok (.vpmaxsdVex128 { pfx := noPrefixes, d := 1, s1 := 2, src := .mem (.pcRelative 0x12345678) }, []) ∧
    encode (.vpmaxsdVex128 { pfx := noPrefixes, d := 1, s1 := 2, src := .mem (.pcRelative 0x12345678) }) =
      [0xC4, 0xE2, 0x69, 0x3D, 0x0D, 0x78, 0x56, 0x34, 0x12] := by
  decide +kernel

/-- E-table 1, `vpmaxsb ymm1, ymm2, ymm3` -/
theorem test_decode_vpmaxsbVex256 :
    decode .long64 [0xC4, 0xE2, 0x6D, 0x3C, 0xCB] =
      .ok (.vpmaxsbVex256 { pfx := noPrefixes, d := 1, s1 := 2, src := .reg 3 }, []) ∧
    encode (.vpmaxsbVex256 { pfx := noPrefixes, d := 1, s1 := 2, src := .reg 3 }) =
      [0xC4, 0xE2, 0x6D, 0x3C, 0xCB] := by
  decide +kernel

/-- written from R145: R = 0, X = 1, B = 0, vvvv = 0101, L = 1 -/
theorem test_decode_vpmaxswVex256 :
    decode .long64 [0xC4, 0x41, 0x2D, 0xEE, 0xDC] =
      .ok (.vpmaxswVex256 { pfx := noPrefixes, d := 11, s1 := 10, src := .reg 12 }, []) ∧
    encode (.vpmaxswVex256 { pfx := noPrefixes, d := 11, s1 := 10, src := .reg 12 }) =
      [0xC4, 0x41, 0x2D, 0xEE, 0xDC] := by
  decide +kernel

/-- E-table 1, `vpmaxsw ymm1, ymm2, [rbp - 128]` -/
theorem test_decode_vpmaxswVex256Short :
    decode .long64 [0xC5, 0xED, 0xEE, 0x4D, 0x80] =
      .ok (.vpmaxswVex256Short { pfx := noPrefixes, d := 1, s1 := 2, src := .mem (.base 5 (.disp8 0x80)) }, []) ∧
    encode (.vpmaxswVex256Short { pfx := noPrefixes, d := 1, s1 := 2, src := .mem (.base 5 (.disp8 0x80)) }) =
      [0xC5, 0xED, 0xEE, 0x4D, 0x80] := by
  decide +kernel

/-- E-table 1, `vpmaxsd ymm14, ymm15, [rsp + 4*r12 + 8]` -/
theorem test_decode_vpmaxsdVex256 :
    decode .long64 [0xC4, 0x22, 0x05, 0x3D, 0x74, 0xA4, 0x08] =
      .ok (.vpmaxsdVex256 { pfx := noPrefixes, d := 14, s1 := 15, src := .mem (.sib 2 (some 12) 4 (.disp8 8)) }, []) ∧
    encode (.vpmaxsdVex256 { pfx := noPrefixes, d := 14, s1 := 15, src := .mem (.sib 2 (some 12) 4 (.disp8 8)) }) =
      [0xC4, 0x22, 0x05, 0x3D, 0x74, 0xA4, 0x08] := by
  decide +kernel

/-- E-table 1 -/
theorem test_decode_vpmaxsbEvex128 :
    decode .long64 [0x62, 0xF2, 0x6D, 0x09, 0x3C, 0xCB] =
      .ok (.vpmaxsbEvex128 { pfx := noPrefixes, d := 1, s1 := 2, src := .reg 3, aaa := 1, z := false, b := false }, []) ∧
    encode (.vpmaxsbEvex128 { pfx := noPrefixes, d := 1, s1 := 2, src := .reg 3, aaa := 1, z := false, b := false }) =
      [0x62, 0xF2, 0x6D, 0x09, 0x3C, 0xCB] := by
  decide +kernel

/-- E-table 1 -/
theorem test_decode_vpmaxsbEvex256 :
    decode .long64 [0x62, 0xF2, 0x6D, 0xA9, 0x3C, 0xCB] =
      .ok (.vpmaxsbEvex256 { pfx := noPrefixes, d := 1, s1 := 2, src := .reg 3, aaa := 1, z := true, b := false }, []) ∧
    encode (.vpmaxsbEvex256 { pfx := noPrefixes, d := 1, s1 := 2, src := .reg 3, aaa := 1, z := true, b := false }) =
      [0x62, 0xF2, 0x6D, 0xA9, 0x3C, 0xCB] := by
  decide +kernel

/-- E-table 1, `vpmaxsb zmm29, zmm30, zmm31` -/
theorem test_decode_vpmaxsbEvex512 :
    decode .long64 [0x62, 0x02, 0x0D, 0x40, 0x3C, 0xEF] =
      .ok (.vpmaxsbEvex512 { pfx := noPrefixes, d := 29, s1 := 30, src := .reg 31, aaa := 0, z := false, b := false }, []) ∧
    encode (.vpmaxsbEvex512 { pfx := noPrefixes, d := 29, s1 := 30, src := .reg 31, aaa := 0, z := false, b := false }) =
      [0x62, 0x02, 0x0D, 0x40, 0x3C, 0xEF] := by
  decide +kernel

/-- E-table 1 -/
theorem test_decode_vpmaxswEvex128 :
    decode .long64 [0x62, 0xF1, 0x6D, 0x0B, 0xEE, 0xCB] =
      .ok (.vpmaxswEvex128 { pfx := noPrefixes, d := 1, s1 := 2, src := .reg 3, aaa := 3, z := false, b := false }, []) ∧
    encode (.vpmaxswEvex128 { pfx := noPrefixes, d := 1, s1 := 2, src := .reg 3, aaa := 3, z := false, b := false }) =
      [0x62, 0xF1, 0x6D, 0x0B, 0xEE, 0xCB] := by
  decide +kernel

/-- E-table 1 -/
theorem test_decode_vpmaxswEvex256 :
    decode .long64 [0x62, 0xF1, 0x6D, 0xAC, 0xEE, 0xCB] =
      .ok (.vpmaxswEvex256 { pfx := noPrefixes, d := 1, s1 := 2, src := .reg 3, aaa := 4, z := true, b := false }, []) ∧
    encode (.vpmaxswEvex256 { pfx := noPrefixes, d := 1, s1 := 2, src := .reg 3, aaa := 4, z := true, b := false }) =
      [0x62, 0xF1, 0x6D, 0xAC, 0xEE, 0xCB] := by
  decide +kernel

/-- E-table 1, `vpmaxsw zmm1 k2, zmm2, [rax + 64]` -/
theorem test_decode_vpmaxswEvex512 :
    decode .long64 [0x62, 0xF1, 0x6D, 0x4A, 0xEE, 0x48, 0x01] =
      .ok (.vpmaxswEvex512 { pfx := noPrefixes, d := 1, s1 := 2, src := .mem (.base 0 (.disp8 1)), aaa := 2, z := false, b := false }, []) ∧
    encode (.vpmaxswEvex512 { pfx := noPrefixes, d := 1, s1 := 2, src := .mem (.base 0 (.disp8 1)), aaa := 2, z := false, b := false }) =
      [0x62, 0xF1, 0x6D, 0x4A, 0xEE, 0x48, 0x01] := by
  decide +kernel

/-- E-table 1, broadcast -/
theorem test_decode_vpmaxsdEvex128 :
    decode .long64 [0x62, 0xF2, 0x6D, 0x18, 0x3D, 0x48, 0x01] =
      .ok (.vpmaxsdEvex128 { pfx := noPrefixes, d := 1, s1 := 2, src := .mem (.base 0 (.disp8 1)), aaa := 0, z := false, b := true }, []) ∧
    encode (.vpmaxsdEvex128 { pfx := noPrefixes, d := 1, s1 := 2, src := .mem (.base 0 (.disp8 1)), aaa := 0, z := false, b := true }) =
      [0x62, 0xF2, 0x6D, 0x18, 0x3D, 0x48, 0x01] := by
  decide +kernel

/-- E-table 2, broadcast -/
theorem test_decode_vpmaxsdEvex256 :
    decode .long64 [0x62, 0xF2, 0x6D, 0x38, 0x3D, 0x8A, 0xF0, 0x07, 0x00, 0x00] =
      .ok (.vpmaxsdEvex256 { pfx := noPrefixes, d := 1, s1 := 2, src := .mem (.base 2 (.disp32 0x7F0)), aaa := 0, z := false, b := true }, []) ∧
    encode (.vpmaxsdEvex256 { pfx := noPrefixes, d := 1, s1 := 2, src := .mem (.base 2 (.disp32 0x7F0)), aaa := 0, z := false, b := true }) =
      [0x62, 0xF2, 0x6D, 0x38, 0x3D, 0x8A, 0xF0, 0x07, 0x00, 0x00] := by
  decide +kernel

/-- E-table 2, the longest encoding -/
theorem test_decode_vpmaxsdEvex512 :
    decode .long64 [0x64, 0x67, 0x62, 0xF2, 0x6D, 0x49, 0x3D, 0x8C, 0x88, 0x78, 0x56, 0x34, 0x12] =
      .ok (.vpmaxsdEvex512 { pfx := { noPrefixes with addrsize := true, seg := some .fs }, d := 1, s1 := 2, src := .mem (.sib 2 (some 1) 0 (.disp32 0x12345678)), aaa := 1, z := false, b := false }, []) := by
  decide +kernel

/-- E-table 1, `vpmaxsq xmm17, xmm18, [rax + 8]`, broadcast -/
theorem test_decode_vpmaxsqEvex128 :
    decode .long64 [0x62, 0xE2, 0xED, 0x10, 0x3D, 0x48, 0x01] =
      .ok (.vpmaxsqEvex128 { pfx := noPrefixes, d := 17, s1 := 18, src := .mem (.base 0 (.disp8 1)), aaa := 0, z := false, b := true }, []) ∧
    encode (.vpmaxsqEvex128 { pfx := noPrefixes, d := 17, s1 := 18, src := .mem (.base 0 (.disp8 1)), aaa := 0, z := false, b := true }) =
      [0x62, 0xE2, 0xED, 0x10, 0x3D, 0x48, 0x01] := by
  decide +kernel

/-- E-table 1 -/
theorem test_decode_vpmaxsqEvex256 :
    decode .long64 [0x62, 0xF2, 0xED, 0xAE, 0x3D, 0xCB] =
      .ok (.vpmaxsqEvex256 { pfx := noPrefixes, d := 1, s1 := 2, src := .reg 3, aaa := 6, z := true, b := false }, []) ∧
    encode (.vpmaxsqEvex256 { pfx := noPrefixes, d := 1, s1 := 2, src := .reg 3, aaa := 6, z := true, b := false }) =
      [0x62, 0xF2, 0xED, 0xAE, 0x3D, 0xCB] := by
  decide +kernel

/-- E-table 2, `vpmaxsq zmm29, zmm30, zmm31` -/
theorem test_decode_vpmaxsqEvex512 :
    decode .long64 [0x62, 0x02, 0x8D, 0x40, 0x3D, 0xEF] =
      .ok (.vpmaxsqEvex512 { pfx := noPrefixes, d := 29, s1 := 30, src := .reg 31, aaa := 0, z := false, b := false }, []) ∧
    encode (.vpmaxsqEvex512 { pfx := noPrefixes, d := 29, s1 := 30, src := .reg 31, aaa := 0, z := false, b := false }) =
      [0x62, 0x02, 0x8D, 0x40, 0x3D, 0xEF] := by
  decide +kernel

/-- E-table 3: `W` is ignored where the row says `WIG` and selects the row under opcode `3D`. -/
theorem test_decode_width_bit :
    decode .long64 [0xC4, 0xE2, 0xE9, 0x3C, 0xCB] = decode .long64 [0xC4, 0xE2, 0x69, 0x3C, 0xCB] ∧
    decode .long64 [0x62, 0xF2, 0xED, 0x08, 0x3C, 0xCB] = decode .long64 [0x62, 0xF2, 0x6D, 0x08, 0x3C, 0xCB] ∧
    decode .long64 [0x62, 0xF2, 0xED, 0x08, 0x3D, 0xCB] ≠ decode .long64 [0x62, 0xF2, 0x6D, 0x08, 0x3D, 0xCB] := by
  decide +kernel

/-- E-table 2: `REX.R` and `REX.B` are ignored where they would name an MMX register. -/
theorem test_decode_mmx_rex :
    decode .long64 [0x44, 0x0F, 0xEE, 0xC1] =
      .ok (.pmaxswMmx { pfx := { noPrefixes with rex := true }, d := 0, src := .reg 1 }, []) ∧
    decode .long64 [0x41, 0x0F, 0xEE, 0xC1] =
      .ok (.pmaxswMmx { pfx := { noPrefixes with rex := true }, d := 0, src := .reg 1 }, []) := by
  decide +kernel

/-- E-table 2 and P6: `Prot32`, with an absolute operand where `Long64` is relative to the next instruction. -/
theorem test_decode_prot32 :
    decode .prot32 [0x0F, 0xEE, 0x5C, 0x24, 0x08] =
      .ok (.pmaxswMmx { pfx := noPrefixes, d := 3, src := .mem (.sib 0 none 4 (.disp8 8)) }, []) ∧
    decode .prot32 [0xC4, 0xE2, 0x6D, 0x3D, 0x0D, 0x00, 0x10, 0x00, 0x00] =
      .ok (.vpmaxsdVex256 { pfx := noPrefixes, d := 1, s1 := 2, src := .mem (.absolute 0x1000) }, []) := by
  decide +kernel

/-- The error the decoder answers. -/
def rejection (mode : Mode) (bytes : List Byte) : Option DecodeError :=
  match decode mode bytes with
  | .ok _ => none
  | .error e => some e

/-- E-table 4: what the decoder refuses by name, and what it reports as `#UD`. -/
theorem test_decode_rejects :
    rejection .long64 [0x62, 0xF2, 0x6D, 0x68, 0x3D, 0xCB] = some .evexReservedLength ∧
    rejection .long64 [0x62, 0xF6, 0x6D, 0x08, 0x3D, 0xCB] = some .evexReservedBits ∧
    rejection .long64 [0x62, 0xFA, 0x6D, 0x08, 0x3D, 0xCB] = some .evexReservedBits ∧
    rejection .long64 [0x62, 0xF2, 0x69, 0x08, 0x3D, 0xCB] = some .evexReservedBits ∧
    rejection .long64 [0x62, 0xF0, 0x6D, 0x08, 0x3D, 0xCB] = some .evexReservedBits ∧
    rejection .long64 [0x62, 0xF3, 0x6D, 0x08, 0x3D, 0xCB] = some .notOfFamily ∧
    rejection .long64 [0x62, 0xF2, 0x6D, 0x08, 0x3E, 0xCB] = some .notOfFamily ∧
    rejection .long64 [0xF3, 0x0F, 0xEE, 0xC1] = some .repBeforeLegacy ∧
    rejection .long64 [0xF2, 0x0F, 0x38, 0x3C, 0xC1] = some .notOfFamily ∧
    rejection .long64 [0x0F, 0x38, 0x3C, 0xC1] = some .notOfFamily ∧
    rejection .long64 [0x66, 0x66, 0x0F, 0xEE, 0xC1] = some .repeatedPrefix ∧
    rejection .long64 [0x2E, 0x66, 0x0F, 0xEE, 0x08] = some .ignoredSegmentOverride ∧
    rejection .long64 [0x64, 0x65, 0x66, 0x0F, 0xEE, 0x08] = some .twoSegmentOverrides ∧
    rejection .long64 [0x66, 0x48, 0x64, 0x0F, 0xEE, 0x08] = some .misplacedRex ∧
    rejection .prot32 [0x67, 0x66, 0x0F, 0xEE, 0x08] = some .address16 ∧
    rejection .prot32 [0xC4, 0xC2, 0x6D, 0x3D, 0x08] = some .prot32Extension ∧
    rejection .prot32 [0x62, 0xF2, 0x6D, 0x00, 0x3D, 0xCB] = some .prot32Extension ∧
    rejection .prot32 [0xC4, 0x22, 0x05, 0x3D, 0x08] = some .notOfFamily ∧
    rejection .prot32 [0x62, 0x32, 0x05, 0x08, 0x3D, 0x08] = some .notOfFamily ∧
    rejection .long64 [0x66, 0x0F] = some .truncated ∧
    rejection .long64 (List.replicate 15 0xF0) = some .repeatedPrefix ∧
    rejection .realAddress [0x0F, 0xEE, 0xC1] = some .modeNotAdmitted := by
  decide +kernel

/-- The words of spec/opcode_table.json, by element size and vector length. Row 3 has the window of row 1 (R146). -/
theorem test_table_words :
    ([(24, 0xEE0F), (32, 0x3C380F), (24, 0xEE0F), (32, 0x3D380F),
      (40, 0x3C0102C4), (40, 0xEE0101C4), (32, 0xEE01C5), (40, 0x3D0102C4),
      (40, 0x3C0502C4), (40, 0xEE0501C4), (32, 0xEE05C5), (40, 0x3D0502C4),
      (48, 0x3C00050262), (48, 0x3C20050262), (48, 0x3C40050262), (48, 0xEE00050162),
      (48, 0xEE20050162), (48, 0xEE40050162), (48, 0x3D00050262), (48, 0x3D20050262),
      (48, 0x3D40050262), (48, 0x3D00850262), (48, 0x3D20850262), (48, 0x3D40850262)].map
      (fun r : Nat × Nat => (decodeTableWord r.1 r.2).map (fun i => (elementBits i, vectorLength i)))) =
    ([(16, 64), (8, 128), (16, 64), (32, 128), (8, 128), (16, 128), (16, 128), (32, 128), (8, 256), (16, 256), (16, 256), (32, 256),
      (8, 128), (8, 256), (8, 512), (16, 128), (16, 256), (16, 512), (32, 128), (32, 256), (32, 512), (64, 128), (64, 256), (64, 512)].map some) := by
  decide +kernel

/-! ## Well-formedness: an ill-formed term for each check -/

theorem test_wf_rejects_es_override_in_long64 :
    (Instr.pmaxsdXmm { pfx := { noPrefixes with opsize := true, seg := some .es }, d := 0, src := .reg 0 }).wf .long64
      = false := by decide +kernel

theorem test_wf_rejects_rex_in_prot32 :
    (Instr.pmaxsdXmm { pfx := { noPrefixes with opsize := true, rex := true }, d := 0, src := .reg 0 }).wf .prot32
      = false := by decide +kernel

theorem test_wf_rejects_address_size_in_prot32 :
    (Instr.pmaxswMmx { pfx := { noPrefixes with addrsize := true }, d := 0, src := .reg 0 }).wf .prot32
      = false := by decide +kernel

theorem test_wf_rejects_other_modes :
    (Instr.pmaxswMmx { pfx := noPrefixes, d := 0, src := .reg 0 }).wf .realAddress = false := by decide +kernel

theorem test_wf_rejects_missing_mandatory_prefix :
    (Instr.pmaxsbXmm { pfx := noPrefixes, d := 0, src := .reg 0 }).wf .long64 = false ∧
    (Instr.pmaxswMmx { pfx := { noPrefixes with opsize := true }, d := 0, src := .reg 0 }).wf .long64 = false := by
  decide +kernel

theorem test_wf_rejects_repeat_prefix :
    (Instr.pmaxswMmx { pfx := { noPrefixes with rep := true }, d := 0, src := .reg 0 }).wf .long64 = false ∧
    (Instr.pmaxswMmx { pfx := { noPrefixes with repne := true }, d := 0, src := .reg 0 }).wf .long64 = false := by
  decide +kernel

theorem test_wf_rejects_high_register_without_rex :
    (Instr.pmaxsbXmm { pfx := { noPrefixes with opsize := true }, d := 8, src := .reg 0 }).wf .long64 = false ∧
    (Instr.pmaxsbXmm { pfx := { noPrefixes with opsize := true }, d := 0, src := .reg 8 }).wf .long64 = false := by
  decide +kernel

theorem test_wf_rejects_high_register_in_prot32 :
    (Instr.vpmaxsdVex128 { pfx := noPrefixes, d := 8, s1 := 0, src := .reg 0 }).wf .prot32 = false ∧
    (Instr.vpmaxsdEvex512
      { pfx := noPrefixes, d := 0, s1 := 16, src := .reg 0, aaa := 0, z := false, b := false }).wf .prot32 = false := by
  decide +kernel

theorem test_wf_rejects_short_vex_extension :
    (Instr.vpmaxswVex128Short { pfx := noPrefixes, d := 0, s1 := 0, src := .reg 8 }).wf .long64 = false := by
  decide +kernel

theorem test_wf_rejects_base_four_without_sib :
    (Instr.vpmaxsdVex128 { pfx := noPrefixes, d := 0, s1 := 0, src := .mem (.base 12 .none) }).wf .long64 = false := by
  decide +kernel

theorem test_wf_rejects_base_five_without_displacement :
    (Instr.vpmaxsdVex128 { pfx := noPrefixes, d := 0, s1 := 0, src := .mem (.base 13 .none) }).wf .long64 = false := by
  decide +kernel

theorem test_wf_rejects_index_four :
    (Instr.vpmaxsdVex128 { pfx := noPrefixes, d := 0, s1 := 0, src := .mem (.sib 0 (some 4) 0 .none) }).wf .long64
      = false ∧
    (Instr.vpmaxsdVex128 { pfx := noPrefixes, d := 0, s1 := 0, src := .mem (.sibNoBase 0 (some 4) 0) }).wf .long64
      = false := by decide +kernel

theorem test_wf_rejects_relative_in_prot32 :
    (Instr.vpmaxsdVex128 { pfx := noPrefixes, d := 0, s1 := 0, src := .mem (.pcRelative 0) }).wf .prot32 = false ∧
    (Instr.vpmaxsdVex128 { pfx := noPrefixes, d := 0, s1 := 0, src := .mem (.absolute 0) }).wf .long64 = false := by
  decide +kernel

theorem test_wf_rejects_sixteen_bytes :
    (Instr.vpmaxsdEvex512
      { pfx := { noPrefixes with lock := true, repne := true, rep := true, opsize := true, addrsize := true }, d := 0,
        s1 := 0, src := .mem (.sibNoBase 0 none 0), aaa := 0, z := false, b := false }).wf .long64 = false := by
  decide +kernel

/-! ## Single steps -/

/-- Start conditions S0 of spec/95_test_vectors.md: `Long64`, every feature, everything enabled, `CR0.NE = 1`, at `1000H`. -/
def start : State :=
  { State.boot State.reset with pc := 0x1000, cr0 := 0x60000030 }

/-- Bytes put into memory from an address on. -/
def poke (s : State) (a : Nat) : List Byte → State
  | [] => s
  | b :: bs => poke { s with mem := writeByte s.mem a b } (a + 1) bs

/-- A vector register set. -/
def withV (s : State) (i : Fin 32) (v : VReg) : State := { s with v := s.v.set i v }

/-- A general register set. -/
def withX (s : State) (i : Fin 16) (v : Qword) : State := { s with x := s.x.set i v }

/-- An opmask register set. -/
def withK (s : State) (i : Fin 8) (v : Qword) : State := { s with k := s.k.set i v }

/-- An x87 register set. -/
def withR (s : State) (i : Fin 8) (v : X87Reg) : State := { s with r := s.r.set i v }

/-- A page that nobody may read. -/
def absent (page : Nat) : PageEntry :=
  { page := page, supervisor := .faults false false false, user := .faults false false false }

/-- One step of the instruction whose bytes are given. -/
def run (s : State) (bytes : List Byte) : Host.Outcome State Fault Refusal := step (poke s s.pc.toNat bytes)

/-- What a next state says, if there is one. -/
def after {α : Type} (f : State → α) : Host.Outcome State Fault Refusal → Option α
  | .next t => some (f t)
  | _ => none

/-- The fault, if there is one. -/
def faultOf : Host.Outcome State Fault Refusal → Option Fault
  | .fault e => some e
  | _ => none

/-- The refusal, if there is one. -/
def refusalOf : Host.Outcome State Fault Refusal → Option Refusal
  | .refused r => some r
  | _ => none

/-- TV-A1: word maxima, `TOS`, tag word, sign and exponent, `pc` -/
theorem test_row1_register :
    after (fun t => ((t.r.get 0).toNat, x87Top t, t.x87Tag, t.pc))
      (run (withR (withR { start with x87Status := 0x2800, x87Tag := 0xFFFF } 0 0x7FFF80000001FFFF) 1 0x80007FFFFFFF0001)
        [0x0F, 0xEE, 0xC1]) =
      some (0xFFFF7FFF7FFF00010001, 0, 0, 0x1003) := by decide +kernel

/-- TV-A2 -/
theorem test_row1_memory_little_endian :
    after (fun t => (readMm t 0).toNat)
      (run (withR (poke (withX start 3 0x2000) 0x2000 [0xFF, 0x7F, 0x00, 0x80, 0x03, 0x00, 0x00, 0x00]) 0 0x0001000280007FFF)
        [0x0F, 0xEE, 0x03]) =
      some 0x0001000380007FFF := by decide +kernel

/-- TV-A4 -/
theorem test_row2_keeps_upper_bits :
    after (fun t => (t.v.get 0).toNat)
      (run (withV (withV start 0 0xA5A5A5A55A5A5A5ADEADBEEF0123456789ABCDEFF00DFACE0BADCAFE112233445566778899AABBCCDDEEFF0013579BDF7F80FF00017F80FF0102030405060708) 1 0x807F00FFFF80807F0807060504030201)
        [0x66, 0x0F, 0x38, 0x3C, 0xC1]) =
      some 0xA5A5A5A55A5A5A5ADEADBEEF0123456789ABCDEFF00DFACE0BADCAFE112233445566778899AABBCCDDEEFF0013579BDF7F7F0000017F807F0807060505060708 := by decide +kernel

/-- TV-A9: FS base, SIB with `r13` base and `r14` index, low 128 bits and `pc` -/
theorem test_row2_segment_and_index :
    after (fun t => (((t.v.get 15).setWidth 128).toNat, t.pc))
      (run { (poke (withX (withX start 13 0x100) 14 0x20) 0x7200 [0x0D, 0x0C, 0x0B, 0x0A, 0x7F, 0x80, 0x7F, 0x80, 0xFF, 0x01, 0xFF, 0x01, 0xFF, 0x01, 0xFF, 0x01]) with
          segs := { resetSegments with fs := { resetSegment with base := 0x7000 } } }
        [0x64, 0x66, 0x47, 0x0F, 0x38, 0x3C, 0x7C, 0xF5, 0x00]) =
      some (0x0100010001000100007F007F0A0B0C0D, 0x1009) := by decide +kernel

/-- TV-A5 -/
theorem test_row3_register_extension :
    after (fun t => ((t.v.get 8).setWidth 128).toNat)
      (run (withV (withV start 8 0x7FFF8000FFFF000000010002FFFE8001) 9 0x80007FFF0000FFFF00020001FFFF8000) [0x66, 0x45, 0x0F, 0xEE, 0xC1]) =
      some 0x7FFF7FFF0000000000020002FFFF8001 := by decide +kernel

/-- TV-A18: base `rbp` and a non-canonical address -/
theorem test_row3_stack_segment :
    faultOf (run (withX start 5 0x0000800000000080) [0x66, 0x0F, 0xEE, 0x4D, 0x80]) =
      some .stackSegment := by decide +kernel

/-- TV-A7: dword-wise, not word-wise -/
theorem test_row4_dword_wise :
    after (fun t => ((t.v.get 2).setWidth 128).toNat)
      (run (withV (withV start 2 0x00010000000100000001000000010000) 3 0x00007FFF00007FFF00007FFF00007FFF) [0x66, 0x0F, 0x38, 0x3D, 0xD3]) =
      some 0x00010000000100000001000000010000 := by decide +kernel

/-- TV-A10 -/
theorem test_row4_misaligned :
    faultOf (run (withX start 0 0x3001) [0x66, 0x0F, 0x38, 0x3D, 0x50, 0x10]) =
      some .generalProtection := by decide +kernel

/-- TV-B11: one register in all three places -/
theorem test_row5_zeroes_upper_bits :
    after (fun t => (t.v.get 7).toNat)
      (run (withV start 7 0xA5A5A5A55A5A5A5ADEADBEEF0123456789ABCDEFF00DFACE0BADCAFE112233445566778899AABBCCDDEEFF0013579BDF7F80FF00017F80FF0102030405060708) [0xC4, 0xE2, 0x41, 0x3C, 0xFF]) =
      some 0x7F80FF00017F80FF0102030405060708 := by decide +kernel

/-- TV-B3 -/
theorem test_row6_three_byte :
    after (fun t => ((t.v.get 1).toNat, t.pc))
      (run (withV (withV start 1 0xA5A5A5A55A5A5A5ADEADBEEF0123456789ABCDEFF00DFACE0BADCAFE112233445566778899AABBCCDDEEFF0013579BDF7FFF8000FFFF000000010002FFFE8001) 3 0x80007FFF0000FFFF00020001FFFF8000) [0xC4, 0xE1, 0x71, 0xEE, 0xCB]) =
      some (0x7FFF7FFF0000000000020002FFFF8001, 0x1005) := by decide +kernel

/-- TV-B2 -/
theorem test_row6_two_byte :
    after (fun t => ((t.v.get 1).toNat, t.pc))
      (run (withV (withV start 1 0xA5A5A5A55A5A5A5ADEADBEEF0123456789ABCDEFF00DFACE0BADCAFE112233445566778899AABBCCDDEEFF0013579BDF7FFF8000FFFF000000010002FFFE8001) 3 0x80007FFF0000FFFF00020001FFFF8000) [0xC5, 0xF1, 0xEE, 0xCB]) =
      some (0x7FFF7FFF0000000000020002FFFF8001, 0x1004) := by decide +kernel

/-- TV-B10: relative to the next instruction -/
theorem test_row7_relative :
    after (fun t => (t.v.get 1).toNat)
      (run { (poke (withV start 2 0x7FFFFFFF80000000FFFFFFFF00000005) 0x12745681 [0xFB, 0xFF, 0xFF, 0xFF, 0x00, 0x00, 0x00, 0x00, 0xFF, 0xFF, 0xFF, 0x7F, 0x00, 0x00, 0x00, 0x80]) with pc := 0x400000 }
        [0xC4, 0xE2, 0x69, 0x3D, 0x0D, 0x78, 0x56, 0x34, 0x12]) =
      some 0x7FFFFFFF7FFFFFFF0000000000000005 := by decide +kernel

/-- TV-B5 -/
theorem test_row8_bytes :
    after (fun t => (t.v.get 1).toNat)
      (run (withV (withV (withV start 1 0xFFFFFFFFFFFFFFFFFFFFFFFFFFFFFFFFFFFFFFFFFFFFFFFFFFFFFFFFFFFFFFFFFFFFFFFFFFFFFFFFFFFFFFFFFFFFFFFFFFFFFFFFFFFFFFFFFFFFFFFFFFFFFFFF) 2 0x7F80FF00017F80FF0102030405060708808080807F7F7F7F00FF00FFFF00FF00) 3 0x807F00FFFF80807F08070605040302017F7F7F7F80808080FF00FF0000FF00FF)
        [0xC4, 0xE2, 0x6D, 0x3C, 0xCB]) =
      some 0x7F7F0000017F807F08070605050607087F7F7F7F7F7F7F7F0000000000000000 := by decide +kernel

/-- TV-B6: base `rbp`, unscaled `disp8` -/
theorem test_row9_two_byte :
    after (fun t => (t.v.get 1).toNat)
      (run (poke (withX (withV start 2 0x7FFF8000FFFF000000010002FFFE8001800080007FFF7FFF0000FFFF12348765) 5 0x4080) 0x4000 [0x34, 0x12, 0x65, 0x87, 0x00, 0x00, 0xFF, 0xFF, 0x00, 0x80, 0x00, 0x80, 0xFF, 0x7F, 0xFF, 0x7F, 0x00, 0x80, 0xFF, 0xFF, 0x01, 0x00, 0x02, 0x00, 0xFF, 0xFF, 0x00, 0x00, 0xFF, 0x7F, 0x00, 0x80])
        [0xC5, 0xED, 0xEE, 0x4D, 0x80]) =
      some 0x7FFF7FFF0000000000020002FFFF80017FFF7FFF7FFF7FFF0000000012341234 := by decide +kernel

/-- TV-B6's values in registers, by R185 -/
theorem test_row9_three_byte :
    after (fun t => (t.v.get 11).toNat)
      (run (withV (withV start 10 0x7FFF8000FFFF000000010002FFFE8001800080007FFF7FFF0000FFFF12348765) 12 0x80007FFF0000FFFF00020001FFFF80007FFF7FFF80008000FFFF000087651234)
        [0xC4, 0x41, 0x2D, 0xEE, 0xDC]) =
      some 0x7FFF7FFF0000000000020002FFFF80017FFF7FFF7FFF7FFF0000000012341234 := by decide +kernel

/-- TV-B8 -/
theorem test_row10_unaligned :
    after (fun t => (t.v.get 1).toNat)
      (run (poke (withX (withV (withV start 1 0xFFFFFFFFFFFFFFFFFFFFFFFFFFFFFFFFFFFFFFFFFFFFFFFFFFFFFFFFFFFFFFFFFFFFFFFFFFFFFFFFFFFFFFFFFFFFFFFFFFFFFFFFFFFFFFFFFFFFFFFFFFFFFFFF) 2 0x7FFFFFFF80000000FFFFFFFF000000050000000000010000FFFF000080000001) 0 0x6001) 0x6001 [0x00, 0x00, 0x00, 0x80, 0x00, 0x00, 0xFE, 0xFF, 0xFF, 0x7F, 0x00, 0x00, 0xFF, 0xFF, 0xFF, 0xFF, 0xFB, 0xFF, 0xFF, 0xFF, 0x00, 0x00, 0x00, 0x00, 0xFF, 0xFF, 0xFF, 0x7F, 0x00, 0x00, 0x00, 0x80])
        [0xC4, 0xE2, 0x6D, 0x3D, 0x08]) =
      some 0x7FFFFFFF7FFFFFFF00000000000000050000000000010000FFFF000080000001 := by decide +kernel

/-- TV-E6: the second page is absent -/
theorem test_row10_page_fault :
    (faultOf (run { (withX start 0 0xFFF0) with pages := [absent 0x10] } [0xC4, 0xE2, 0x6D, 0x3D, 0x08])).map Fault.vector =
      some 14 := by decide +kernel

/-- TV-C2, and TV-C3's bits above `VL` -/
theorem test_row11_merging :
    after (fun t => (t.v.get 1).toNat)
      (run (withK (withV (withV (withV start 1 0xA5A5A5A55A5A5A5ADEADBEEF0123456789ABCDEFF00DFACE0BADCAFE112233445566778899AABBCCDDEEFF0013579BDFCCCCCCCCCCCCCCCCCCCCCCCCCCCCCCCC) 2 0x7F80FF00017F80FF0102030405060708) 3 0x807F00FFFF80807F0807060504030201) 1 0xFF) [0x62, 0xF2, 0x6D, 0x09, 0x3C, 0xCB]) =
      some 0xCCCCCCCCCCCCCCCC0807060505060708 := by decide +kernel

/-- TV-C14 -/
theorem test_row11_zeroing_without_mask :
    faultOf (run start [0x62, 0xF2, 0x6D, 0x88, 0x3C, 0xCB]) =
      some .invalidOpcode := by decide +kernel

/-- TV-C5 -/
theorem test_row12_zeroing :
    after (fun t => (t.v.get 1).toNat)
      (run (withK (withV (withV (withV start 1 0xFFFFFFFFFFFFFFFFFFFFFFFFFFFFFFFFFFFFFFFFFFFFFFFFFFFFFFFFFFFFFFFFFFFFFFFFFFFFFFFFFFFFFFFFFFFFFFFFFFFFFFFFFFFFFFFFFFFFFFFFFFFFFFFF) 2 0x7F80FF00017F80FF0102030405060708808080807F7F7F7F00FF00FFFF00FF00) 3 0x807F00FFFF80807F08070605040302017F7F7F7F80808080FF00FF0000FF00FF) 1 0xAAAAAAAA)
        [0x62, 0xF2, 0x6D, 0xA9, 0x3C, 0xCB]) =
      some 0x7F0000000100800008000600050007007F007F007F007F000000000000000000 := by decide +kernel

/-- TV-C7 -/
theorem test_row13_high_registers :
    after (fun t => (t.v.get 29).toNat)
      (run (withV (withV start 30 0xABA6A19C97928D88837E79746F6A65605B56514C47423D38332E29241F1A15100B0601FCF7F2EDE8E3DED9D4CFCAC5C0BBB6B1ACA7A29D98938E89847F7A7570) 31 0xD3D6D9DCDFE2E5E8EBEEF1F4F7FAFD000306090C0F1215181B1E2124272A2D303336393C3F4245484B4E5154575A5D606366696C6F7275787B7E8184878A8D90)
        [0x62, 0x02, 0x0D, 0x40, 0x3C, 0xEF]) =
      some 0xD3D6D9DCDFE2E5E8EB7E79746F6A65605B56514C47423D38332E2924272A2D303336393C3F4245484B4E5154575A5D606366696C6F7275787B7E89847F7A7570 := by decide +kernel

/-- TV-C8: mask bits above `KL` -/
theorem test_row14_merging :
    after (fun t => (t.v.get 1).toNat)
      (run (withK (withV (withV (withV start 1 0x11112222333344445555666677778888) 2 0x7FFF8000FFFF000000010002FFFE8001) 3 0x80007FFF0000FFFF00020001FFFF8000) 3 0xFFFFFF0F)
        [0x62, 0xF1, 0x6D, 0x0B, 0xEE, 0xCB]) =
      some 0x111122223333444400020002FFFF8001 := by decide +kernel

/-- TV-C9 -/
theorem test_row15_zeroing :
    after (fun t => (t.v.get 1).toNat)
      (run (withK (withV (withV start 2 0x7FFF8000FFFF000000010002FFFE8001800080007FFF7FFF0000FFFF12348765) 3 0x80007FFF0000FFFF00020001FFFF80007FFF7FFF80008000FFFF000087651234) 4 0x8421) [0x62, 0xF1, 0x6D, 0xAC, 0xEE, 0xCB]) =
      some 0x7FFF0000000000000000000200000000000000007FFF00000000000000001234 := by decide +kernel

/-- TV-C10's displacement and memory with no mask, the values of TV-C11 -/
theorem test_row16_memory :
    after (fun t => (t.v.get 1).toNat)
      (run (poke (withX (withV start 2 0x780F700E680D600C580B500A4809400838073006280520041803100208010000F7FFEFFEE7FDDFFCD7FBCFFAC7F9BFF8B7F7AFF6A7F59FF497F38FF287F17FF0) 0 0x9000) 0x9040 [0x10, 0x80, 0x0D, 0x79, 0x0A, 0x72, 0x07, 0x6B, 0x04, 0x64, 0x01, 0x5D, 0xFE, 0x55, 0xFB, 0x4E, 0xF8, 0x47, 0xF5, 0x40, 0xF2, 0x39, 0xEF, 0x32, 0xEC, 0x2B, 0xE9, 0x24, 0xE6, 0x1D, 0xE3, 0x16, 0xE0, 0x0F, 0xDD, 0x08, 0xDA, 0x01, 0xD7, 0xFA, 0xD4, 0xF3, 0xD1, 0xEC, 0xCE, 0xE5, 0xCB, 0xDE, 0xC8, 0xD7, 0xC5, 0xD0, 0xC2, 0xC9, 0xBF, 0xC2, 0xBC, 0xBB, 0xB9, 0xB4, 0xB6, 0xAD, 0xB3, 0xA6])
        [0x62, 0xF1, 0x6D, 0x48, 0xEE, 0x48, 0x01]) =
      some 0x780F700E680D600C580B500A4809400838073006280520041803100208DD0FE016E31DE624E92BEC32EF39F240F547F84EFB55FE5D0164046B07720A790D7FF0 := by decide +kernel

/-- TV-D4: `disp8` scaled by 4, four bytes read -/
theorem test_row17_broadcast :
    after (fun t => (t.v.get 1).toNat)
      (run (poke (withX (withV (withV start 1 0xFFFFFFFFFFFFFFFFFFFFFFFFFFFFFFFFFFFFFFFFFFFFFFFFFFFFFFFFFFFFFFFFFFFFFFFFFFFFFFFFFFFFFFFFFFFFFFFFFFFFFFFFFFFFFFFFFFFFFFFFFFFFFFFF) 2 0x7FFFFFFF80000000FFFFFFFF00000005) 0 0xA000) 0xA000 [0xEE, 0xEE, 0xEE, 0xEE, 0x00, 0x00, 0x00, 0x00, 0xEE, 0xEE, 0xEE, 0xEE])
        [0x62, 0xF2, 0x6D, 0x18, 0x3D, 0x48, 0x01]) =
      some 0x7FFFFFFF000000000000000000000005 := by decide +kernel

/-- TV-D13 -/
theorem test_row17_empty_mask_merging :
    after (fun t => (t.v.get 1).toNat)
      (run (withV start 1 0xA5A5A5A55A5A5A5ADEADBEEF0123456789ABCDEFF00DFACE0BADCAFE112233445566778899AABBCCDDEEFF0013579BDF00000003000000020000000400000003) [0x62, 0xF2, 0x6D, 0x0F, 0x3D, 0xCB]) =
      some 0x00000003000000020000000400000003 := by decide +kernel

/-- TV-D5 -/
theorem test_row18_merging :
    after (fun t => (t.v.get 1).toNat)
      (run (withK (withV (withV (withV start 1 0x0D0D0D0D0C0C0C0C0B0B0B0B0A0A0A0A09090909080808080707070706060606) 2 0x7FFFFFFF80000000FFFFFFFF000000050000000000010000FFFF000080000001) 3 0x800000007FFFFFFF00000000FFFFFFFBFFFFFFFF00007FFFFFFE000080000000) 5 0xA5)
        [0x62, 0xF2, 0x6D, 0x2D, 0x3D, 0xCB]) =
      some 0x7FFFFFFF0C0C0C0C000000000A0A0A0A09090909000100000707070780000001 := by decide +kernel

/-- TV-D8: `disp32` unscaled, unaligned -/
theorem test_row19_disp32 :
    after (fun t => (t.v.get 1).toNat)
      (run (poke (withX (withV start 2 0x0700000706000006050000050400000403000003020000020100000100000000FEFFFFFFFDFFFFFEFCFFFFFDFBFFFFFCFAFFFFFBF9FFFFFAF8FFFFF9F7FFFFF8) 0 0xC000) 0xC041 [0x00, 0x00, 0x00, 0x80, 0x11, 0x11, 0x11, 0x91, 0x22, 0x22, 0x22, 0xA2, 0x33, 0x33, 0x33, 0xB3, 0x44, 0x44, 0x44, 0xC4, 0x55, 0x55, 0x55, 0xD5, 0x66, 0x66, 0x66, 0xE6, 0x77, 0x77, 0x77, 0xF7, 0x88, 0x88, 0x88, 0x08, 0x99, 0x99, 0x99, 0x19, 0xAA, 0xAA, 0xAA, 0x2A, 0xBB, 0xBB, 0xBB, 0x3B, 0xCC, 0xCC, 0xCC, 0x4C, 0xDD, 0xDD, 0xDD, 0x5D, 0xEE, 0xEE, 0xEE, 0x6E, 0xFF, 0xFF, 0xFF, 0x7F])
        [0x62, 0xF2, 0x6D, 0x48, 0x3D, 0x88, 0x41, 0x00, 0x00, 0x00]) =
      some 0x7FFFFFFF6EEEEEEE5DDDDDDD4CCCCCCC3BBBBBBB2AAAAAAA1999999908888888FEFFFFFFFDFFFFFEFCFFFFFDFBFFFFFCFAFFFFFBF9FFFFFAF8FFFFF9F7FFFFF8 := by decide +kernel

/-- TV-D3 -/
theorem test_row20_qword_wise :
    after (fun t => (t.v.get 1).toNat)
      (run (withV (withV start 2 0x0000000100000000000000007FFFFFFF) 3 0x000000007FFFFFFF0000000100000000)
        [0x62, 0xF2, 0xED, 0x08, 0x3D, 0xCB]) =
      some 0x00000001000000000000000100000000 := by decide +kernel

/-- TV-D9 -/
theorem test_row20_broadcast :
    after (fun t => (t.v.get 17).toNat)
      (run (poke (withX (withV start 18 0xFFFFFFFFFFFFFFFE0000000000000001) 0 0xD000) 0xD008 [0xFF, 0xFF, 0xFF, 0xFF, 0xFF, 0xFF, 0xFF, 0xFF])
        [0x62, 0xE2, 0xED, 0x10, 0x3D, 0x48, 0x01]) =
      some 0xFFFFFFFFFFFFFFFF0000000000000001 := by decide +kernel

/-- TV-D10 -/
theorem test_row21_zeroing :
    after (fun t => (t.v.get 1).toNat)
      (run (withK (withV (withV start 2 0x7FFFFFFFFFFFFFFF8000000000000000FFFFFFFFFFFFFFFF0000000000000001) 3 0x80000000000000007FFFFFFFFFFFFFFF0000000000000000FFFFFFFFFFFFFFFF) 6 0xF6)
        [0x62, 0xF2, 0xED, 0xAE, 0x3D, 0xCB]) =
      some 0x00000000000000007FFFFFFFFFFFFFFF00000000000000000000000000000000 := by decide +kernel

/-- TV-D12 -/
theorem test_row22_broadcast :
    after (fun t => (t.v.get 1).toNat)
      (run (poke (withX (withV start 2 0x0000000300000003000000020000000200000001000000010000000000000000FFFFFFFEFFFFFFFFFFFFFFFDFFFFFFFEFFFFFFFCFFFFFFFDFFFFFFFBFFFFFFFC) 0 0xE000) 0xE100 [0xFF, 0xFF, 0xFF, 0xFF, 0xFF, 0xFF, 0xFF, 0xFF])
        [0x62, 0xF2, 0xED, 0x58, 0x3D, 0x48, 0x20]) =
      some 0x0000000300000003000000020000000200000001000000010000000000000000FFFFFFFFFFFFFFFFFFFFFFFFFFFFFFFFFFFFFFFFFFFFFFFFFFFFFFFFFFFFFFFF := by decide +kernel

/-- TV-D17: a base that is not canonical, an absent page -/
theorem test_row22_only_read_bytes_count :
    (faultOf (run { (withX start 0 0xFFFF7FFFFFFFFFF8) with pages := [absent 0xFFFF800000000] } [0x62, 0xE2, 0xED, 0x10, 0x3D, 0x48, 0x01])).map Fault.vector =
      some 14 := by decide +kernel

/-- `#UD` before `#NM` before `#MF` (TV-A12, TV-A15, TV-A14). -/
theorem test_priority :
    faultOf (run { start with cr0 := 0x6000003C, x87Status := 0x80 } [0x0F, 0xEE, 0xC1]) = some .invalidOpcode ∧
    faultOf (run { start with cr0 := 0x60000038, x87Status := 0x80 } [0x0F, 0xEE, 0xC1]) = some .deviceNotAvailable ∧
    faultOf (run { start with x87Status := 0x80 } [0x0F, 0xEE, 0xC1]) = some .mathFault := by decide +kernel

/-- TV-E3: alignment checking and a VEX form. -/
theorem test_vector_alignment_check_refused :
    refusalOf (run { withX start 0 0x3001 with
      cr0 := 0x60040030, eflags := 0x40002, segs := { resetSegments with cs := { resetCodeSegment with selector := 3 } } }
      [0xC4, 0xE2, 0x6D, 0x3D, 0x08]) = some .vectorAlignmentCheck := by decide +kernel

/-- P6, third step, in `Prot32` without its mask: 32-bit address, broadcast, 32-bit `pc`. -/
theorem test_prot32_step :
    after (fun t => ((t.v.get 1).toNat, t.pc.toNat))
      (run { poke (withX (withV start 2 0x00010000FFFF0000) 3 0x0001234500004FFC) 0x4FFC [1, 0, 0, 0] with
        mode := .prot32, segs :=
          { cs := { selector := 8, base := 0, limit := 0xFFFFFFFF, readable := true, bounds := .expandUp },
            ss := { selector := 16, base := 0, limit := 0xFFFFFFFF, readable := true, bounds := .expandUp },
            ds := { selector := 16, base := 0, limit := 0xFFFFFFFF, readable := true, bounds := .expandUp },
            es := resetSegment, fs := resetSegment, gs := resetSegment } }
        [0x62, 0xF2, 0x6D, 0x18, 0x3D, 0x0B]) =
      some (0x00000001000000010001000000000001, 0x1006) := by decide +kernel

/-- The step from reset, and the step of a table word placed after reset. -/
theorem test_reset_steps :
    refusalOf (step State.reset) = some .modeNotAdmitted ∧
    after (fun t => t.pc) (step (State.reset.withFetchWord 48 0x003D40050262)) = some 0xFFF6 := by decide +kernel

/-! ## States and operands that meet the statements' hypotheses -/

/-- `Ready` as a test. -/
def readyB (i : Instr) (s : State) : Bool :=
  (launchStop s).isNone && hasAll s.features (rowFeatures i) && !cr0Ts s &&
    match shapeOf i with
    | .mmx o => !o.pfx.lock && !cr0Em s && cr4Osfxsr s && !x87Pending s
    | .sse o => !o.pfx.lock && !cr0Em s && cr4Osfxsr s
    | .vex o => !illegalBeforeVex o.pfx && cr4Osxsave s && xcr0Avx s
    | .evex broadcast o =>
      !illegalBeforeVex o.pfx && !evexReservedForm broadcast o && cr4Osxsave s && xcr0Avx s && xcr0Avx512 s

theorem ready_of {i : Instr} {s : State} (h : readyB i s = true) : Ready i s := by
  simp only [readyB, Bool.and_eq_true, Option.isNone_iff_eq_none, Bool.not_eq_true'] at h
  obtain ⟨⟨⟨ha, hf⟩, ht⟩, hs⟩ := h
  refine ⟨(launchStop_none_iff s).1 ha, ⟨hf, ?_⟩, ht, ?_⟩ <;> cases hsh : shapeOf i <;>
    simp_all [← evexReservedForm_false_iff]

theorem launchable_of {s : State} (h : launchStop s = none) : Launchable s := (launchStop_none_iff s).1 h

theorem next_of {x : Host.Outcome State Fault Refusal} (h : after (fun _ => ()) x = some ()) : ∃ t, x = .next t := by
  cases x <;> simp_all [after]

/-- `ByteIs` as a test, for the first `n` bytes. -/
def bytesB (s : State) (pl : Place) (n : Nat) (f : Nat → Byte) : Bool :=
  (List.range n).all fun k =>
    !badByte s pl k &&
      match translate s (byteLinear s pl k) with
      | .ok a => (regionAt s a).isNone && dataByte s pl n a == f k
      | .error _ => false

theorem bytes_of {s : State} {pl : Place} {n : Nat} {f : Nat → Byte} (h : bytesB s pl n f = true) :
    ∀ k < n, ByteIs s pl n k (f k) := by
  intro k hk
  have hk' := List.all_eq_true.1 h k (List.mem_range.2 hk)
  simp only [Bool.and_eq_true, Bool.not_eq_true'] at hk'
  obtain ⟨hb, hm⟩ := hk'
  cases ht : translate s (byteLinear s pl k) with
  | error e => simp [ht] at hm
  | ok a =>
    simp only [ht, Bool.and_eq_true, Option.isNone_iff_eq_none, beq_iff_eq] at hm
    exact ⟨hb, a, ht, hm.1, hm.2⟩

/-- Without a pending write, the width of the read does not matter. -/
theorem byteIs_alone {s : State} {pl : Place} {n m k : Nat} {b : Byte} (hp : s.pending = []) (h : ByteIs s pl n k b) :
    ByteIs s pl m k b := by
  obtain ⟨hb, a, ht, hr, hd⟩ := h
  exact ⟨hb, a, ht, hr, by rw [dataByte_alone s pl m a hp, ← hd, dataByte_alone s pl n a hp]⟩

/-- The operand at address `2000H`. -/
def place : Place := { seg := .ds, narrow := false, ea := 0x2000 }

/-- The start state with `rax = 2000H` and 64 bytes, 1 to 64, there. -/
def data : State := poke (withX start 0 0x2000) 0x2000 ((List.range 64).map (fun k => BitVec.ofNat 8 (k + 1)))

/-- The value of the first bytes there. -/
def dataValue (w : Nat) : BitVec w := BitVec.ofNat w (littleEndian ((List.range (w / 8)).map (byteValue data place (w / 8))))

theorem data_bytes : ∀ k < 64, ByteIs data place 64 k (BitVec.ofNat 8 (k + 1)) := bytes_of (by decide +kernel)

theorem data_operand (w : Nat) (hw : 8 * (w / 8) = w) (h : w / 8 ≤ 64) : OperandIs data place (dataValue w) := by
  intro k hk
  have hb : ByteIs data place (w / 8) k (BitVec.ofNat 8 (k + 1)) := byteIs_alone rfl (data_bytes k (by omega))
  have hv := littleEndian_byte ((List.range (w / 8)).map (byteValue data place (w / 8))) w k (by simpa using hw)
    (by simpa using hk)
  have hbv := (byteIs_value _ _ _ _ _ hb).2.2.2
  simp only [List.getElem_map, List.getElem_range, hbv] at hv
  rw [dataValue, hv]
  exact hb

theorem data_accepted (n : Nat) : AcceptedByAc data place n := fun h => absurd h (by decide +kernel)

def mmxReg : MmxOperands := { pfx := noPrefixes, d := 0, src := .reg 1 }
def mmxMem : MmxOperands := { pfx := noPrefixes, d := 7, src := .mem (.base 0 .none) }
def sseReg : SseOperands := { pfx := { noPrefixes with opsize := true }, d := 15, src := .reg 0 }
def sseMem : SseOperands := { pfx := { noPrefixes with opsize := true }, d := 0, src := .mem (.base 0 .none) }
def vexReg : VexOperands := { pfx := noPrefixes, d := 15, s1 := 15, src := .reg 15 }
def vexMem : VexOperands := { pfx := noPrefixes, d := 0, s1 := 1, src := .mem (.base 0 .none) }
def evexReg : EvexOperands := { pfx := noPrefixes, d := 31, s1 := 31, src := .reg 31, aaa := 7, z := true, b := false }
def evexMem : EvexOperands :=
  { pfx := noPrefixes, d := 0, s1 := 1, src := .mem (.base 0 .none), aaa := 0, z := false, b := false }
def evexBroadcast : EvexOperands :=
  { pfx := noPrefixes, d := 0, s1 := 1, src := .mem (.base 0 .none), aaa := 1, z := false, b := true }

theorem test_wit_SmaxIsSignedMaximum :
    0 < 8 ∧ (0x01#8).toInt > (0xFF#8).toInt ∧ ¬(0x80#8).toInt > (0x80#8).toInt := by decide

theorem test_wit_SmaxLaws : 0 < 1 ∧ (0x80#8).msb = true ∧ (0x7F#8).msb = false := by decide

theorem test_wit_PmaxsLaneByLane : 8 ∈ [8, 16, 32, 64] ∧ 512 ∈ [64, 128, 256, 512] ∧ 63 < 512 / 8 := by decide

theorem test_wit_BcastEveryLane : 64 ∈ [8, 16, 32, 64] ∧ 64 ∈ [64, 128, 256, 512] ∧ 0 < 64 / 64 := by decide

theorem test_wit_MaskedLaneByLane :
    64 ∈ [8, 16, 32, 64] ∧ 128 ∈ [128, 256, 512] ∧
      ∀ j < 128 / 64, (0x2 : Qword).getLsbD j = (0xFFFFFFFFFFFFFFFE : Qword).getLsbD j := by decide

theorem test_wit_IntrinsicsLaneByLane : 16 ∈ [8, 16, 32, 64] ∧ 64 ∈ [64, 128, 256, 512] ∧ 3 < 64 / 16 := by decide

theorem test_wit_MmxFormCompletes :
    (Ready (.pmaxswMmx mmxReg) start ∧ MmxSourceIs mmxReg (Instr.pmaxswMmx mmxReg).length start (readMm start 1)) ∧
    (Ready (.pmaxswMmx mmxMem) data ∧ MmxSourceIs mmxMem (Instr.pmaxswMmx mmxMem).length data (dataValue 64)) ∧
    faultOf (exec (.pmaxswMmx mmxReg) { start with cr0 := 0x60000038 }) = some .deviceNotAvailable :=
  ⟨⟨ready_of (by decide +kernel), rfl⟩, ⟨ready_of (by decide +kernel), data_accepted 8, data_operand 64 rfl (by decide)⟩,
    by decide +kernel⟩

theorem data_aligned : Aligned16 data place := by unfold Aligned16; decide +kernel

theorem test_wit_LegacySseFormsComplete :
    (Ready (.pmaxsbXmm sseReg) start ∧ SseSourceIs sseReg (Instr.pmaxsbXmm sseReg).length start (readV 128 start 0)) ∧
    (Ready (.pmaxsbXmm sseMem) data ∧ SseSourceIs sseMem (Instr.pmaxsbXmm sseMem).length data (dataValue 128)) ∧
    (Ready (.pmaxswXmm sseReg) start ∧ SseSourceIs sseReg (Instr.pmaxswXmm sseReg).length start (readV 128 start 0)) ∧
    (Ready (.pmaxswXmm sseMem) data ∧ SseSourceIs sseMem (Instr.pmaxswXmm sseMem).length data (dataValue 128)) ∧
    (Ready (.pmaxsdXmm sseReg) start ∧ SseSourceIs sseReg (Instr.pmaxsdXmm sseReg).length start (readV 128 start 0)) ∧
    (Ready (.pmaxsdXmm sseMem) data ∧ SseSourceIs sseMem (Instr.pmaxsdXmm sseMem).length data (dataValue 128)) := by
  refine ⟨⟨ready_of ?_, rfl⟩, ⟨ready_of ?_, data_aligned, data_operand 128 rfl (by decide)⟩, ⟨ready_of ?_, rfl⟩, ⟨ready_of ?_, data_aligned, data_operand 128 rfl (by decide)⟩, ⟨ready_of ?_, rfl⟩, ⟨ready_of ?_, data_aligned, data_operand 128 rfl (by decide)⟩⟩ <;>
    decide +kernel

theorem test_wit_VexFormsComplete :
    (Ready (.vpmaxsbVex128 vexReg) start ∧
      VexSourceIs 128 vexReg (Instr.vpmaxsbVex128 vexReg).length start (readV 128 start (vreg 15))) ∧
    (Ready (.vpmaxsbVex128 vexMem) data ∧ VexSourceIs 128 vexMem (Instr.vpmaxsbVex128 vexMem).length data (dataValue 128)) ∧
    (Ready (.vpmaxswVex128 vexReg) start ∧
      VexSourceIs 128 vexReg (Instr.vpmaxswVex128 vexReg).length start (readV 128 start (vreg 15))) ∧
    (Ready (.vpmaxswVex128 vexMem) data ∧ VexSourceIs 128 vexMem (Instr.vpmaxswVex128 vexMem).length data (dataValue 128)) ∧
    (Ready (.vpmaxswVex128Short vexReg) start ∧
      VexSourceIs 128 vexReg (Instr.vpmaxswVex128Short vexReg).length start (readV 128 start (vreg 15))) ∧
    (Ready (.vpmaxswVex128Short vexMem) data ∧ VexSourceIs 128 vexMem (Instr.vpmaxswVex128Short vexMem).length data (dataValue 128)) ∧
    (Ready (.vpmaxsdVex128 vexReg) start ∧
      VexSourceIs 128 vexReg (Instr.vpmaxsdVex128 vexReg).length start (readV 128 start (vreg 15))) ∧
    (Ready (.vpmaxsdVex128 vexMem) data ∧ VexSourceIs 128 vexMem (Instr.vpmaxsdVex128 vexMem).length data (dataValue 128)) ∧
    (Ready (.vpmaxsbVex256 vexReg) start ∧
      VexSourceIs 256 vexReg (Instr.vpmaxsbVex256 vexReg).length start (readV 256 start (vreg 15))) ∧
    (Ready (.vpmaxsbVex256 vexMem) data ∧ VexSourceIs 256 vexMem (Instr.vpmaxsbVex256 vexMem).length data (dataValue 256)) ∧
    (Ready (.vpmaxswVex256 vexReg) start ∧
      VexSourceIs 256 vexReg (Instr.vpmaxswVex256 vexReg).length start (readV 256 start (vreg 15))) ∧
    (Ready (.vpmaxswVex256 vexMem) data ∧ VexSourceIs 256 vexMem (Instr.vpmaxswVex256 vexMem).length data (dataValue 256)) ∧
    (Ready (.vpmaxswVex256Short vexReg) start ∧
      VexSourceIs 256 vexReg (Instr.vpmaxswVex256Short vexReg).length start (readV 256 start (vreg 15))) ∧
    (Ready (.vpmaxswVex256Short vexMem) data ∧ VexSourceIs 256 vexMem (Instr.vpmaxswVex256Short vexMem).length data (dataValue 256)) ∧
    (Ready (.vpmaxsdVex256 vexReg) start ∧
      VexSourceIs 256 vexReg (Instr.vpmaxsdVex256 vexReg).length start (readV 256 start (vreg 15))) ∧
    (Ready (.vpmaxsdVex256 vexMem) data ∧ VexSourceIs 256 vexMem (Instr.vpmaxsdVex256 vexMem).length data (dataValue 256)) := by
  refine ⟨⟨ready_of ?_, rfl⟩, ⟨ready_of ?_, data_accepted _, data_operand 128 rfl (by decide)⟩,
    ⟨ready_of ?_, rfl⟩, ⟨ready_of ?_, data_accepted _, data_operand 128 rfl (by decide)⟩,
    ⟨ready_of ?_, rfl⟩, ⟨ready_of ?_, data_accepted _, data_operand 128 rfl (by decide)⟩,
    ⟨ready_of ?_, rfl⟩, ⟨ready_of ?_, data_accepted _, data_operand 128 rfl (by decide)⟩,
    ⟨ready_of ?_, rfl⟩, ⟨ready_of ?_, data_accepted _, data_operand 256 rfl (by decide)⟩,
    ⟨ready_of ?_, rfl⟩, ⟨ready_of ?_, data_accepted _, data_operand 256 rfl (by decide)⟩,
    ⟨ready_of ?_, rfl⟩, ⟨ready_of ?_, data_accepted _, data_operand 256 rfl (by decide)⟩,
    ⟨ready_of ?_, rfl⟩, ⟨ready_of ?_, data_accepted _, data_operand 256 rfl (by decide)⟩⟩ <;>
    decide +kernel

theorem test_wit_EvexByteWordFormsComplete :
    (Ready (.vpmaxsbEvex128 evexReg) start ∧
      EvexSourceIs 8 128 evexReg (Instr.vpmaxsbEvex128 evexReg).length start (readV 128 start 31)) ∧
    (Ready (.vpmaxsbEvex128 evexMem) data ∧ EvexSourceIs 8 128 evexMem (Instr.vpmaxsbEvex128 evexMem).length data (dataValue 128)) ∧
    (Ready (.vpmaxsbEvex256 evexReg) start ∧
      EvexSourceIs 8 256 evexReg (Instr.vpmaxsbEvex256 evexReg).length start (readV 256 start 31)) ∧
    (Ready (.vpmaxsbEvex256 evexMem) data ∧ EvexSourceIs 8 256 evexMem (Instr.vpmaxsbEvex256 evexMem).length data (dataValue 256)) ∧
    (Ready (.vpmaxsbEvex512 evexReg) start ∧
      EvexSourceIs 8 512 evexReg (Instr.vpmaxsbEvex512 evexReg).length start (readV 512 start 31)) ∧
    (Ready (.vpmaxsbEvex512 evexMem) data ∧ EvexSourceIs 8 512 evexMem (Instr.vpmaxsbEvex512 evexMem).length data (dataValue 512)) ∧
    (Ready (.vpmaxswEvex128 evexReg) start ∧
      EvexSourceIs 16 128 evexReg (Instr.vpmaxswEvex128 evexReg).length start (readV 128 start 31)) ∧
    (Ready (.vpmaxswEvex128 evexMem) data ∧ EvexSourceIs 16 128 evexMem (Instr.vpmaxswEvex128 evexMem).length data (dataValue 128)) ∧
    (Ready (.vpmaxswEvex256 evexReg) start ∧
      EvexSourceIs 16 256 evexReg (Instr.vpmaxswEvex256 evexReg).length start (readV 256 start 31)) ∧
    (Ready (.vpmaxswEvex256 evexMem) data ∧ EvexSourceIs 16 256 evexMem (Instr.vpmaxswEvex256 evexMem).length data (dataValue 256)) ∧
    (Ready (.vpmaxswEvex512 evexReg) start ∧
      EvexSourceIs 16 512 evexReg (Instr.vpmaxswEvex512 evexReg).length start (readV 512 start 31)) ∧
    (Ready (.vpmaxswEvex512 evexMem) data ∧ EvexSourceIs 16 512 evexMem (Instr.vpmaxswEvex512 evexMem).length data (dataValue 512)) :=
  ⟨⟨ready_of (by decide +kernel), rfl⟩, ⟨ready_of (by decide +kernel), data_accepted _, data_operand 128 rfl (by decide)⟩,
    ⟨ready_of (by decide +kernel), rfl⟩, ⟨ready_of (by decide +kernel), data_accepted _, data_operand 256 rfl (by decide)⟩,
    ⟨ready_of (by decide +kernel), rfl⟩, ⟨ready_of (by decide +kernel), data_accepted _, data_operand 512 rfl (by decide)⟩,
    ⟨ready_of (by decide +kernel), rfl⟩, ⟨ready_of (by decide +kernel), data_accepted _, data_operand 128 rfl (by decide)⟩,
    ⟨ready_of (by decide +kernel), rfl⟩, ⟨ready_of (by decide +kernel), data_accepted _, data_operand 256 rfl (by decide)⟩,
    ⟨ready_of (by decide +kernel), rfl⟩, ⟨ready_of (by decide +kernel), data_accepted _, data_operand 512 rfl (by decide)⟩⟩

theorem test_wit_EvexDwordQwordFormsComplete :
    (Ready (.vpmaxsdEvex128 evexReg) start ∧
      EvexSourceIs 32 128 evexReg (Instr.vpmaxsdEvex128 evexReg).length start (readV 128 start 31)) ∧
    (Ready (.vpmaxsdEvex128 evexMem) data ∧ EvexSourceIs 32 128 evexMem (Instr.vpmaxsdEvex128 evexMem).length data (dataValue 128)) ∧
    (Ready (.vpmaxsdEvex128 evexBroadcast) data ∧
      EvexSourceIs 32 128 evexBroadcast (Instr.vpmaxsdEvex128 evexBroadcast).length data (bcast 32 128 (dataValue 32))) ∧
    (Ready (.vpmaxsdEvex256 evexReg) start ∧
      EvexSourceIs 32 256 evexReg (Instr.vpmaxsdEvex256 evexReg).length start (readV 256 start 31)) ∧
    (Ready (.vpmaxsdEvex256 evexMem) data ∧ EvexSourceIs 32 256 evexMem (Instr.vpmaxsdEvex256 evexMem).length data (dataValue 256)) ∧
    (Ready (.vpmaxsdEvex256 evexBroadcast) data ∧
      EvexSourceIs 32 256 evexBroadcast (Instr.vpmaxsdEvex256 evexBroadcast).length data (bcast 32 256 (dataValue 32))) ∧
    (Ready (.vpmaxsdEvex512 evexReg) start ∧
      EvexSourceIs 32 512 evexReg (Instr.vpmaxsdEvex512 evexReg).length start (readV 512 start 31)) ∧
    (Ready (.vpmaxsdEvex512 evexMem) data ∧ EvexSourceIs 32 512 evexMem (Instr.vpmaxsdEvex512 evexMem).length data (dataValue 512)) ∧
    (Ready (.vpmaxsdEvex512 evexBroadcast) data ∧
      EvexSourceIs 32 512 evexBroadcast (Instr.vpmaxsdEvex512 evexBroadcast).length data (bcast 32 512 (dataValue 32))) ∧
    (Ready (.vpmaxsqEvex128 evexReg) start ∧
      EvexSourceIs 64 128 evexReg (Instr.vpmaxsqEvex128 evexReg).length start (readV 128 start 31)) ∧
    (Ready (.vpmaxsqEvex128 evexMem) data ∧ EvexSourceIs 64 128 evexMem (Instr.vpmaxsqEvex128 evexMem).length data (dataValue 128)) ∧
    (Ready (.vpmaxsqEvex128 evexBroadcast) data ∧
      EvexSourceIs 64 128 evexBroadcast (Instr.vpmaxsqEvex128 evexBroadcast).length data (bcast 64 128 (dataValue 64))) ∧
    (Ready (.vpmaxsqEvex256 evexReg) start ∧
      EvexSourceIs 64 256 evexReg (Instr.vpmaxsqEvex256 evexReg).length start (readV 256 start 31)) ∧
    (Ready (.vpmaxsqEvex256 evexMem) data ∧ EvexSourceIs 64 256 evexMem (Instr.vpmaxsqEvex256 evexMem).length data (dataValue 256)) ∧
    (Ready (.vpmaxsqEvex256 evexBroadcast) data ∧
      EvexSourceIs 64 256 evexBroadcast (Instr.vpmaxsqEvex256 evexBroadcast).length data (bcast 64 256 (dataValue 64))) ∧
    (Ready (.vpmaxsqEvex512 evexReg) start ∧
      EvexSourceIs 64 512 evexReg (Instr.vpmaxsqEvex512 evexReg).length start (readV 512 start 31)) ∧
    (Ready (.vpmaxsqEvex512 evexMem) data ∧ EvexSourceIs 64 512 evexMem (Instr.vpmaxsqEvex512 evexMem).length data (dataValue 512)) ∧
    (Ready (.vpmaxsqEvex512 evexBroadcast) data ∧
      EvexSourceIs 64 512 evexBroadcast (Instr.vpmaxsqEvex512 evexBroadcast).length data (bcast 64 512 (dataValue 64))) :=
  ⟨⟨ready_of (by decide +kernel), rfl⟩, ⟨ready_of (by decide +kernel), data_accepted _, data_operand 128 rfl (by decide)⟩,
    ⟨ready_of (by decide +kernel), dataValue 32, by decide +kernel, data_accepted _, data_operand 32 rfl (by decide)⟩,
    ⟨ready_of (by decide +kernel), rfl⟩, ⟨ready_of (by decide +kernel), data_accepted _, data_operand 256 rfl (by decide)⟩,
    ⟨ready_of (by decide +kernel), dataValue 32, by decide +kernel, data_accepted _, data_operand 32 rfl (by decide)⟩,
    ⟨ready_of (by decide +kernel), rfl⟩, ⟨ready_of (by decide +kernel), data_accepted _, data_operand 512 rfl (by decide)⟩,
    ⟨ready_of (by decide +kernel), dataValue 32, by decide +kernel, data_accepted _, data_operand 32 rfl (by decide)⟩,
    ⟨ready_of (by decide +kernel), rfl⟩, ⟨ready_of (by decide +kernel), data_accepted _, data_operand 128 rfl (by decide)⟩,
    ⟨ready_of (by decide +kernel), dataValue 64, by decide +kernel, data_accepted _, data_operand 64 rfl (by decide)⟩,
    ⟨ready_of (by decide +kernel), rfl⟩, ⟨ready_of (by decide +kernel), data_accepted _, data_operand 256 rfl (by decide)⟩,
    ⟨ready_of (by decide +kernel), dataValue 64, by decide +kernel, data_accepted _, data_operand 64 rfl (by decide)⟩,
    ⟨ready_of (by decide +kernel), rfl⟩, ⟨ready_of (by decide +kernel), data_accepted _, data_operand 512 rfl (by decide)⟩,
    ⟨ready_of (by decide +kernel), dataValue 64, by decide +kernel, data_accepted _, data_operand 64 rfl (by decide)⟩⟩

theorem test_wit_EvexWritesWholeRegister :
    shapeOf (.vpmaxsbEvex128 evexReg) = .evex false evexReg ∧ ∃ t, exec (.vpmaxsbEvex128 evexReg) start = .next t :=
  ⟨rfl, next_of (by decide +kernel)⟩

theorem test_wit_EveryFormKeepsTheRest :
    (∃ t, exec (.pmaxswMmx mmxMem) data = .next t) ∧ (∃ t, exec (.pmaxsbXmm sseMem) data = .next t) ∧
    (∃ t, exec (.vpmaxsdVex256 vexMem) data = .next t) ∧ (∃ t, exec (.vpmaxsqEvex512 evexMem) data = .next t) :=
  ⟨next_of (by decide +kernel), next_of (by decide +kernel), next_of (by decide +kernel), next_of (by decide +kernel)⟩

theorem test_wit_PcAdvancesByLength :
    (∃ t, exec (.vpmaxsdVex256 vexReg) start = .next t) ∧ start.mode = .long64 ∧
    (∃ t, exec (.vpmaxsdVex256 vexReg) { start with mode := .prot32, pc := 0xFFFFFFFF } = .next t) ∧
    faultOf (exec (.vpmaxsdVex256 vexReg) { start with cr0 := 8 }) = some .deviceNotAvailable :=
  ⟨next_of (by decide +kernel), rfl, next_of (by decide +kernel), by decide +kernel⟩

theorem test_wit_MemoryReadOnlyAtOperand :
    operandOf (.vpmaxsdVex128 vexMem) data = some { place := place, bytes := 16 } ∧
    ∀ k < 16, ∀ a, bytePhysical data place k = some a → readByte (writeByte data.mem 0x2010 0xFF) a = readByte data.mem a := by
  refine ⟨by decide +kernel, ?_⟩
  intro k hk a ha
  have h : ∀ k < 16, bytePhysical data place k = some (0x2000 + k) ∧
      readByte (writeByte data.mem 0x2010 0xFF) (0x2000 + k) = readByte data.mem (0x2000 + k) := by decide +kernel
  rw [(h k hk).1] at ha
  exact Option.some.inj ha ▸ (h k hk).2

theorem test_wit_EflagsReadOnlyForAlignment :
    (0xFFFFFEFF &&& ~~~0x40000 : BitVec 32).getLsbD 18 = start.eflags.getLsbD 18 ∧
    (0xFFFFFEFF &&& ~~~0x40000 : BitVec 32).getLsbD 8 = start.eflags.getLsbD 8 := by decide +kernel

theorem test_wit_OpmaskReadOnlyBelowElementCount :
    shapeOf (.vpmaxsbEvex128 evexReg) = .evex false evexReg ∧ evexReg.aaa ≠ 0 ∧
    ∀ j < 128 / 8, ((start.k.set 7 0xFFFFFFFFFFFF0000).get 7).getLsbD j = (start.k.get 7).getLsbD j := by
  refine ⟨rfl, ?_, ?_⟩ <;> decide +kernel

theorem test_wit_LegacyFormsIgnoreXcr0 :
    (∃ o, shapeOf (.pmaxswMmx mmxReg) = .mmx o) ∧ ∃ o, shapeOf (.pmaxsdXmm sseReg) = .sse o :=
  ⟨⟨mmxReg, rfl⟩, sseReg, rfl⟩

theorem test_wit_UndefinedByCr0Em :
    Launchable { start with cr0 := 0x60000034 } ∧ (0x60000034 : Qword).getLsbD 2 = true ∧
    ∀ n, n ≠ 2 → (0x60000034 : Qword).getLsbD n = start.cr0.getLsbD n := by
  refine ⟨launchable_of (by decide +kernel), by decide, ?_⟩
  intro n hn
  have hlo : ∀ n < 64, n ≠ 2 → (0x60000034 : Qword).getLsbD n = (0x60000030 : Qword).getLsbD n := by decide +kernel
  by_cases h : n < 64
  · exact hlo n h hn
  · rw [BitVec.getLsbD_of_ge _ _ (Nat.le_of_not_lt h), BitVec.getLsbD_of_ge _ _ (Nat.le_of_not_lt h)]

theorem test_wit_UndefinedByCr4Osfxsr :
    Launchable { start with cr4 := 0x40000 } ∧ (0x40000 : Qword).getLsbD 9 = false ∧
    ∀ n, n ≠ 9 → (0x40000 : Qword).getLsbD n = start.cr4.getLsbD n := by
  refine ⟨launchable_of (by decide +kernel), by decide, ?_⟩
  intro n hn
  have hlo : ∀ n < 64, n ≠ 9 → (0x40000 : Qword).getLsbD n = start.cr4.getLsbD n := by decide +kernel
  by_cases h : n < 64
  · exact hlo n h hn
  · rw [BitVec.getLsbD_of_ge _ _ (Nat.le_of_not_lt h), BitVec.getLsbD_of_ge _ _ (Nat.le_of_not_lt h)]

theorem test_wit_UndefinedByXsaveState :
    Launchable { start with cr4 := 0x200 } ∧ (0x200 : Qword).getLsbD 18 = false ∧
    Launchable { start with xcr0 := 0x7 } ∧ (0x7 : Qword).getLsbD 5 = false ∧
    Launchable { start with xcr0 := 0x61 } ∧ (0x61 : Qword).getLsbD 1 = false :=
  ⟨launchable_of (by decide +kernel), by decide, launchable_of (by decide +kernel), by decide,
    launchable_of (by decide +kernel), by decide⟩

/-- The start state's processor without AVX-512VL. -/
def noVl : State := { start with features := { allFeatures with avx512vl := false } }

/-- A set of features that breaks an implication. -/
def notClosed : State := { start with features := { allFeatures with avx2 := false } }

theorem test_wit_UndefinedByFeature :
    (Launchable noVl ∧ ∃ f ∈ rowFeatures (.vpmaxsbEvex128 evexReg), hasFeature noVl.features f = false) ∧
    notClosed.mode = .long64 ∧ eflagsTf notClosed = false ∧ breakpointOn notClosed = false ∧
    notClosed.features.avx512f = true ∧ notClosed.features.avx2 = false :=
  ⟨⟨launchable_of (by decide +kernel), .avx512vl, by decide, rfl⟩, rfl, by decide +kernel, by decide +kernel, rfl, rfl⟩

theorem test_wit_ReservedEvexFormsUndefined :
    Launchable start ∧ shapeOf (.vpmaxswEvex512 evexBroadcast) = .evex false evexBroadcast ∧ evexBroadcast.b = true ∧
    shapeOf (.vpmaxsdEvex512 { evexReg with b := true }) = .evex true { evexReg with b := true } ∧
    (∃ r, evexReg.src = .reg r) ∧ ({ evexReg with aaa := 0 } : EvexOperands).z = true :=
  ⟨launchable_of (by decide +kernel), rfl, rfl, rfl, ⟨31, rfl⟩, rfl⟩

theorem test_wit_UndefinedByPrefix :
    Launchable start ∧ (prefixesOf (.pmaxswMmx { mmxReg with pfx := { noPrefixes with lock := true } })).lock = true ∧
    (∃ o, shapeOf (.vpmaxsdVex128 { vexReg with pfx := { noPrefixes with rex := true } }) = .vex o) ∧
    (prefixesOf (.vpmaxsdVex128 { vexReg with pfx := { noPrefixes with rex := true } })).rex = true :=
  ⟨launchable_of (by decide +kernel), rfl, ⟨_, rfl⟩, rfl⟩

/-- A state of `Prot32` with flat segments. -/
def flat : State :=
  { start with
    mode := .prot32
    segs :=
      { cs := { selector := 8, base := 0, limit := 0xFFFFFFFF, readable := true, bounds := .expandUp }
        ss := { selector := 16, base := 0, limit := 0xFFFFFFFF, readable := true, bounds := .expandUp }
        ds := { selector := 16, base := 0, limit := 0xFFFFFFFF, readable := true, bounds := .expandUp }
        es := resetSegment
        fs := resetSegment
        gs := resetSegment } }

/-- What the bytes at `pc` are when these stand there. -/
def fetched (s : State) (bytes : List Byte) : List Byte := fetchBytes (poke s s.pc.toNat bytes)

theorem admittedPrefixes_of {mode : Mode} {pre : List Byte}
    (h : (pre.all (fun b => (admittedPrefixBytes mode).contains b) && decide pre.Nodup &&
      decide ((pre.filter (fun b => overrideBytes.contains b)).length ≤ 1)) = true) : AdmittedPrefixes mode pre := by
  simpa [AdmittedPrefixes, and_assoc] using h

theorem test_wit_ReservedEvexBitsFault :
    Launchable start ∧ AdmittedPrefixes start.mode [0x67, 0xF2, 0x65, 0xF0] ∧ OptionalRex [0x4D] ∧
    fetched start [0x67, 0xF2, 0x65, 0xF0, 0x4D, 0x62, 0xF6, 0x6D, 0x08, 0x3D, 0xCB] =
      [0x67, 0xF2, 0x65, 0xF0] ++ [0x4D] ++ [0x62, 0xF6, 0x6D, 0x08, 0x3D] ++ 0xCB :: List.replicate 4 0 ∧
    Launchable flat ∧ AdmittedPrefixes flat.mode [0x36, 0x66] ∧ OptionalRex [] ∧
    (0xF0 : Byte).extractLsb' 6 2 = 3 ∧ (0xF0 : Byte).getLsbD 5 = true ∧ (0xF0 : Byte).getLsbD 4 = true ∧
    (0x6D : Byte).getLsbD 6 = true ∧ (0x08 : Byte).getLsbD 3 = true ∧
    fetched flat [0x36, 0x66, 0x62, 0xF0, 0x6D, 0x08, 0x3D, 0xCB] =
      [0x36, 0x66] ++ [] ++ [0x62, 0xF0, 0x6D, 0x08, 0x3D] ++ 0xCB :: List.replicate 7 0 ∧
    modRMLength (0xCB :: List.replicate 7 0) = 1 ∧ modRMLength [0x84, 0x25, 0] = 6 ∧
    (fetched flat [0x36, 0x66, 0x62, 0xF0, 0x6D, 0x08, 0x3D, 0xCB]).length = 15 := by
  refine ⟨launchable_of ?_, admittedPrefixes_of ?_, .inr ⟨0xD, rfl⟩, ?_, launchable_of ?_, admittedPrefixes_of ?_,
    .inl rfl, ?_, ?_, ?_, ?_, ?_, ?_, ?_, ?_, ?_⟩ <;> decide +kernel

theorem test_wit_ReservedVectorLengthFaults :
    Launchable start ∧ AdmittedPrefixes start.mode [] ∧ OptionalRex [] ∧ OptionalRex [0x48] ∧
    (0xF2 : Byte).extractLsb' 2 2 = 0 ∧ (0x6D : Byte).getLsbD 2 = true ∧ (0x6D : Byte).extractLsb' 0 2 = 1 ∧
    (0x68 : Byte).extractLsb' 5 2 = 3 ∧ (0xF2 : Byte).extractLsb' 0 2 = 2 ∧ (0xF1 : Byte).extractLsb' 0 2 = 1 ∧
    fetched start [0x62, 0xF2, 0x6D, 0x68, 0x3D, 0xCB] =
      [] ++ [] ++ [0x62, 0xF2, 0x6D, 0x68, 0x3D] ++ 0xCB :: List.replicate 9 0 ∧
    fetched start [0x48, 0x62, 0xF1, 0x6D, 0x68, 0xEE, 0xCB] =
      [] ++ [0x48] ++ [0x62, 0xF1, 0x6D, 0x68, 0xEE] ++ 0xCB :: List.replicate 8 0 ∧
    AdmittedPrefixes start.mode [0xF0, 0xF2, 0xF3, 0x67, 0x64] ∧
    fetched start [0xF0, 0xF2, 0xF3, 0x67, 0x64, 0x62, 0xF2, 0x6D, 0x68, 0x3D, 0x84, 0x25, 0, 0, 0] =
      [0xF0, 0xF2, 0xF3, 0x67, 0x64] ++ [] ++ [0x62, 0xF2, 0x6D, 0x68, 0x3D] ++ [0x84, 0x25, 0, 0, 0] ∧
    15 < [0xF0, 0xF2, 0xF3, 0x67, 0x64].length + ([] : List Byte).length + 5 + modRMLength [0x84, 0x25, 0, 0, 0] := by
  refine ⟨launchable_of ?_, admittedPrefixes_of ?_, .inl rfl, .inr ⟨8, rfl⟩, ?_, ?_, ?_, ?_, ?_, ?_, ?_, ?_,
    admittedPrefixes_of ?_, ?_, ?_⟩ <;>
    decide +kernel

/-- 60_exceptions R229, level 1: 16 bytes are too long also where `L'L = 11b` or a reserved bit would be `#UD`; 15 bytes of
them are. -/
theorem test_over_long_before_undefined :
    rejection .long64 [0xF0, 0xF2, 0xF3, 0x67, 0x64, 0x62, 0xF2, 0x6D, 0x68, 0x3D, 0x84, 0x25, 0, 0, 0, 0] = some .tooLong ∧
    rejection .long64 [0xF0, 0xF2, 0xF3, 0x67, 0x64, 0x62, 0xF2, 0x6D, 0x68, 0x3D, 0x84, 0x25, 0, 0, 0] = some .tooLong ∧
    rejection .long64 [0xF2, 0xF3, 0x67, 0x64, 0x62, 0xF2, 0x6D, 0x68, 0x3D, 0x84, 0x25, 0, 0, 0, 0] =
      some .evexReservedLength ∧
    rejection .long64 [0xF0, 0xF2, 0xF3, 0x67, 0x64, 0x62, 0xF6, 0x6D, 0x08, 0x3D, 0x84, 0x25, 0, 0, 0, 0] = some .tooLong ∧
    refusalOf (run start [0xF0, 0xF2, 0xF3, 0x67, 0x64, 0x62, 0xF2, 0x6D, 0x68, 0x3D, 0x84, 0x25, 0, 0, 0, 0]) =
      some (.undecodable .tooLong) := by decide +kernel

theorem test_wit_IgnoredWidthBit :
    (∀ b ∈ [(0x64 : Byte), 0x67], b ∈ prefixBytes) ∧ OptionalRex [] ∧
    decode .long64 ([0x64, 0x67] ++ [] ++ [0xC4, 0xE2, 0x6D ^^^ 0x80, 0x3D] ++ [0x08]) =
      .ok (.vpmaxsdVex256
        { pfx := { noPrefixes with addrsize := true, seg := some .fs }, d := 1, s1 := 2, src := .mem (.base 0 .none) }, []) ∧
    decode .long64 ([] ++ [] ++ [0x62, 0xF1, 0x6D ^^^ 0x80, 0x4A, 0xEE] ++ [0x48, 0x01]) =
      .ok (.vpmaxswEvex512
        { pfx := noPrefixes, d := 1, s1 := 2, src := .mem (.base 0 (.disp8 1)), aaa := 2, z := false, b := false }, []) := by
  refine ⟨?_, .inl rfl, ?_, ?_⟩ <;> decide +kernel

theorem test_wit_DeviceNotAvailableByTs :
    faultOf (exec (.pmaxswMmx mmxReg) { start with cr0 := 0x60000038 }) = some .deviceNotAvailable ∧
    faultOf (exec (.pmaxswMmx mmxReg) { start with cr0 := 0x60000034 }) = some .invalidOpcode := by decide +kernel

theorem test_wit_MathFaultByPendingException :
    faultOf (exec (.pmaxswMmx mmxReg) { start with x87Status := 0x80 }) = some .mathFault ∧
    refusalOf (exec (.pmaxswMmx mmxReg) { start with x87Status := 0x80, cr0 := 0x60000010 }) = some .externalMathError ∧
    ∀ o, Instr.pmaxsbXmm sseReg ≠ .pmaxswMmx o := by
  refine ⟨?_, ?_, fun o h => by cases h⟩ <;> decide +kernel

theorem test_wit_RowOneWithoutOsfxsr :
    refusalOf (exec (.pmaxswMmx mmxReg) { start with cr4 := 0x40000 }) = some .mmxWithoutOsfxsr ∧
    ∀ o, Instr.pmaxsbXmm sseReg ≠ .pmaxswMmx o := by
  refine ⟨?_, fun o h => by cases h⟩
  decide +kernel

/-- Addresses that leave the canonical range: below it at once, and at the last byte of an operand through `SS`. -/
def high : State := withX (withX start 0 0x0000800000000000) 5 0x00007FFFFFFFFFF1

def sseStack : SseOperands := { sseMem with src := .mem (.base 5 (.disp8 0)) }

theorem test_wit_NonCanonicalOperandFaults :
    Ready (.vpmaxsdVex128 vexMem) high ∧
    operandOf (.vpmaxsdVex128 vexMem) high = some { place := { seg := .ds, narrow := false, ea := 0x0000800000000000 }, bytes := 16 } ∧
    byteUsed (.vpmaxsdVex128 vexMem) high 0 = true ∧
    (byteLinear high { seg := .ds, narrow := false, ea := 0x0000800000000000 } 0).getLsbD 47 ≠
      (byteLinear high { seg := .ds, narrow := false, ea := 0x0000800000000000 } 0).getLsbD 63 ∧
    Ready (.pmaxsdXmm sseStack) high ∧
    operandOf (.pmaxsdXmm sseStack) high = some { place := { seg := .ss, narrow := false, ea := 0x00007FFFFFFFFFF1 }, bytes := 16 } ∧
    (byteLinear high { seg := .ss, narrow := false, ea := 0x00007FFFFFFFFFF1 } 15).getLsbD 47 ≠
      (byteLinear high { seg := .ss, narrow := false, ea := 0x00007FFFFFFFFFF1 } 15).getLsbD 63 := by
  refine ⟨ready_of ?_, ?_, ?_, ?_, ready_of ?_, ?_, ?_⟩ <;> decide +kernel

/-- `DS` ends one byte before an operand at `2000H` does; `ES` has a null selector. -/
def short : State :=
  { withX flat 0 0x2000 with
    segs := { flat.segs with ds := { selector := 16, base := 0, limit := 0x200E, readable := true, bounds := .expandUp } } }

/-- `SS` cannot be read, and neither can `DS`. -/
def unreadable : State :=
  { withX flat 5 0x2000 with
    segs := { flat.segs with
      ss := { selector := 16, base := 0, limit := 0xFFFFFFFF, readable := false, bounds := .expandUp }
      ds := { selector := 16, base := 0, limit := 0xFFFFFFFF, readable := false, bounds := .expandUp } } }

/-- `SS` is expand-down above `1FFFH`; `DS` ends at `200EH` and has `3000H` besides. -/
def bounded : State :=
  { withX (withX flat 0 0x2000) 5 0x1FF1 with
    segs := { flat.segs with
      ss := { flat.segs.ss with limit := 0x1FFF, bounds := .expandDown true }
      ds := { flat.segs.ds with
        limit := 0xFFFF, bounds := .ranges [{ first := 0, last := 0x200E }, { first := 0x3000, last := 0x3000 }] } } }

/-- An expand-down segment has the offsets above its limit only; up to `FFFFH` where it is not big. -/
theorem test_expand_down :
    ([0x1FFF, 0x2000, 0xFFFF, 0x10000, 0xFFFFFFFF].map (hasOffset bounded.segs.ss) = [false, true, true, true, true]) ∧
    ([0x1FFF, 0x2000, 0xFFFF, 0x10000].map (hasOffset { bounded.segs.ss with bounds := .expandDown false }) =
      [false, true, true, false]) ∧
    ([0x200E, 0x200F, 0x3000, 0x3001].map (hasOffset bounded.segs.ds) = [true, false, true, false]) := by decide +kernel

theorem test_wit_SegmentViolationFaults :
    Ready (.pmaxsdXmm sseMem) short ∧
    operandOf (.pmaxsdXmm sseMem) short = some { place := { seg := .ds, narrow := true, ea := 0x2000 }, bytes := 16 } ∧
    byteUsed (.pmaxsdXmm sseMem) short 15 = true ∧
    (segReg short .ds).limit.toNat < (byteOffset { seg := .ds, narrow := true, ea := 0x2000 } 15).toNat ∧
    operandOf (.pmaxsdXmm { sseMem with pfx := { noPrefixes with opsize := true, seg := some .es } }) short =
      some { place := { seg := .es, narrow := true, ea := 0x2000 }, bytes := 16 } ∧
    (segReg short .es).selector.extractLsb' 2 14 = 0 ∧
    Ready (.pmaxsdXmm sseStack) unreadable ∧
    operandOf (.pmaxsdXmm sseStack) unreadable =
      some { place := { seg := .ss, narrow := true, ea := 0x2000 }, bytes := 16 } ∧
    byteUsed (.pmaxsdXmm sseStack) unreadable 0 = true ∧ (segReg unreadable .ss).readable = false ∧
    operandOf (.pmaxsdXmm sseMem) unreadable = some { place := { seg := .ds, narrow := true, ea := 0 }, bytes := 16 } ∧
    (segReg unreadable .ds).readable = false ∧
    Ready (.pmaxsdXmm sseStack) bounded ∧
    operandOf (.pmaxsdXmm sseStack) bounded = some { place := { seg := .ss, narrow := true, ea := 0x1FF1 }, bytes := 16 } ∧
    (byteOffset { seg := .ss, narrow := true, ea := 0x1FF1 } 14).toNat ≤ (segReg bounded .ss).limit.toNat ∧
    operandOf (.pmaxsdXmm sseMem) bounded = some { place := { seg := .ds, narrow := true, ea := 0x2000 }, bytes := 16 } ∧
    ∀ r ∈ [(⟨0, 0x200E⟩ : OffsetRange), ⟨0x3000, 0x3000⟩],
      (byteOffset { seg := .ds, narrow := true, ea := 0x2000 } 15).toNat < r.first ∨
        r.last < (byteOffset { seg := .ds, narrow := true, ea := 0x2000 } 15).toNat := by
  refine ⟨ready_of ?_, ?_, ?_, ?_, ?_, ?_, ready_of ?_, ?_, ?_, ?_, ?_, ?_, ready_of ?_, ?_, ?_, ?_, ?_⟩ <;> decide +kernel

/-- The operand at `2001H`; and through `FS`, whose base is no multiple of 16. -/
def odd : State :=
  { withX start 0 0x2001 with segs := { resetSegments with fs := { resetSegment with base := 0x0F } } }

def sseFs : SseOperands := { sseMem with pfx := { noPrefixes with opsize := true, seg := some .fs } }

theorem test_wit_MisalignedLegacyOperandFaults :
    Ready (.pmaxsdXmm sseMem) odd ∧
    operandOf (.pmaxsdXmm sseMem) odd = some { place := { seg := .ds, narrow := false, ea := 0x2001 }, bytes := 16 } ∧
    (∀ k < 16, badByte odd { seg := .ds, narrow := false, ea := 0x2001 } k = false) ∧
    (segmentBase odd .ds).toNat % 16 = 0 ∧
    (byteLinear odd { seg := .ds, narrow := false, ea := 0x2001 } 0).extractLsb' 0 4 ≠ 0 ∧
    (∀ k < 16, (translate odd (byteLinear odd { seg := .ds, narrow := false, ea := 0x2001 } k)).isOk = true) ∧
    Ready (.pmaxsdXmm sseFs) odd ∧
    operandOf (.pmaxsdXmm sseFs) odd = some { place := { seg := .fs, narrow := false, ea := 0x2001 }, bytes := 16 } ∧
    (∀ k < 16, badByte odd { seg := .fs, narrow := false, ea := 0x2001 } k = false) ∧
    (segmentBase odd .fs).toNat % 16 ≠ 0 := by
  refine ⟨ready_of ?_, ?_, ?_, ?_, ?_, ?_, ready_of ?_, ?_, ?_, ?_⟩ <;> decide +kernel

/-- The operand at `2001H` at CPL 3 with alignment checking on. -/
def checked : State :=
  { withX start 0 0x2001 with
    cr0 := 0x60040030
    eflags := 0x40002
    segs := { resetSegments with cs := { resetCodeSegment with selector := 0x33 } } }

theorem test_wit_AlignmentCheckOnRowOne :
    Ready (.pmaxswMmx mmxMem) checked ∧
    operandOf (.pmaxswMmx mmxMem) checked = some { place := { seg := .ds, narrow := false, ea := 0x2001 }, bytes := 8 } ∧
    (∀ k < 64, badByte checked { seg := .ds, narrow := false, ea := 0x2001 } k = false) ∧
    checked.cr0.getLsbD 18 = true ∧ checked.eflags.getLsbD 18 = true ∧
    checked.segs.cs.selector.extractLsb' 0 2 = 3 ∧
    (byteLinear checked { seg := .ds, narrow := false, ea := 0x2001 } 0).toNat % 8 ≠ 0 ∧
    (∀ k < 8, (translate checked (byteLinear checked { seg := .ds, narrow := false, ea := 0x2001 } k)).isOk = true) ∧
    Ready (.vpmaxsdVex256 vexMem) checked ∧ Ready (.vpmaxsqEvex512 evexMem) checked ∧
    (byteLinear checked { seg := .ds, narrow := false, ea := 0x2001 } 0).toNat % 64 ≠ 0 := by
  refine ⟨ready_of ?_, ?_, ?_, ?_, ?_, ?_, ?_, ?_, ready_of ?_, ready_of ?_, ?_⟩ <;> decide +kernel

/-- An operand at `1FF8H` whose second half lies in an absent page. -/
def torn : State := { withX start 0 0x1FF8 with pages := [absent 2] }

def tornPlace : Place := { seg := .ds, narrow := false, ea := 0x1FF8 }

theorem test_wit_PageFaultReportsOperandByte :
    Ready (.vpmaxsdVex128 vexMem) torn ∧
    operandOf (.vpmaxsdVex128 vexMem) torn = some { place := tornPlace, bytes := 16 } ∧
    AlignmentMet (.vpmaxsdVex128 vexMem) torn { place := tornPlace, bytes := 16 } ∧
    (∀ k < 16, badByte torn tornPlace k = false) ∧ byteUsed (.vpmaxsdVex128 vexMem) torn 8 = true ∧
    (translate torn (byteLinear torn tornPlace 8)).isOk = false ∧
    (translate torn (byteLinear torn tornPlace 7)).isOk = true := by
  refine ⟨ready_of ?_, ?_, fun h => absurd h ?_, ?_, ?_, ?_, ?_⟩ <;> decide +kernel

/-- The same operand at CPL 3 with alignment checking on, one byte further. -/
def tornChecked : State := { checked with x := start.x.set 0 0x1FF9, pages := [absent 2] }

theorem test_wit_LevelSixReportsOneThatHolds :
    Ready (.pmaxsdXmm sseMem) torn ∧
    operandOf (.pmaxsdXmm sseMem) torn = some { place := tornPlace, bytes := 16 } ∧
    (∀ k < 16, badByte torn tornPlace k = false) ∧ (translate torn (byteLinear torn tornPlace 15)).isOk = false ∧
    (segmentBase torn .ds).toNat % 16 = 0 ∧ (byteLinear torn tornPlace 0).toNat % 16 ≠ 0 ∧
    Ready (.pmaxswMmx mmxMem) tornChecked ∧
    operandOf (.pmaxswMmx mmxMem) tornChecked =
      some { place := { seg := .ds, narrow := false, ea := 0x1FF9 }, bytes := 8 } ∧
    (∀ k < 8, badByte tornChecked { seg := .ds, narrow := false, ea := 0x1FF9 } k = false) ∧
    (translate tornChecked (byteLinear tornChecked { seg := .ds, narrow := false, ea := 0x1FF9 } 7)).isOk = false ∧
    alignCheckEnabled tornChecked = true ∧
    (byteLinear tornChecked { seg := .ds, narrow := false, ea := 0x1FF9 } 0).toNat % 8 ≠ 0 := by
  refine ⟨ready_of ?_, ?_, ?_, ?_, ?_, ?_, ready_of ?_, ?_, ?_, ?_, ?_, ?_⟩ <;> decide +kernel

def evexMasked : EvexOperands := { evexMem with aaa := 1 }

/-- `K[1]` leaves in use exactly the elements of the readable half. -/
def tornMasked : State := withK torn 1 0x1

/-- `K[1]` has a bit above the four lanes, and none in them. -/
def tornEmpty : State := withK { withX start 0 0x2000 with pages := [absent 2] } 1 0x10

theorem test_wit_MaskedOffFaultsTwoWay :
    (Ready (.vpmaxsqEvex128 evexMasked) tornMasked ∧
      operandOf (.vpmaxsqEvex128 evexMasked) tornMasked = some { place := tornPlace, bytes := 16 } ∧
      AlignmentMet (.vpmaxsqEvex128 evexMasked) tornMasked { place := tornPlace, bytes := 16 } ∧
      (∀ k < 16, byteRegion tornMasked tornPlace k = none) ∧
      UsedBytesHold 64 128 (.vpmaxsqEvex128 evexMasked) evexMasked tornMasked { place := tornPlace, bytes := 16 } 0) ∧
    Ready (.vpmaxsdEvex128 evexBroadcast) tornEmpty ∧
    operandOf (.vpmaxsdEvex128 evexBroadcast) tornEmpty = some { place := place, bytes := 4 } ∧
    AlignmentMet (.vpmaxsdEvex128 evexBroadcast) tornEmpty { place := place, bytes := 4 } ∧
    (∀ k < 4, byteRegion tornEmpty place k = none) ∧
    UsedBytesHold 32 128 (.vpmaxsdEvex128 evexBroadcast) evexBroadcast tornEmpty { place := place, bytes := 4 } 0 := by
  have hb : ∀ k < 8, ByteIs tornMasked tornPlace 8 k 0 := bytes_of (f := fun _ => 0) (by decide +kernel)
  have hu : ∀ k < 16, byteUsed (.vpmaxsqEvex128 evexMasked) tornMasked k = true → k < 8 := by decide +kernel
  have hn : ∀ k < 4, byteUsed (.vpmaxsdEvex128 evexBroadcast) tornEmpty k = false := by decide +kernel
  refine ⟨⟨ready_of (by decide +kernel), by decide +kernel, fun h => absurd h (by decide +kernel), by decide +kernel, ?_⟩,
    ready_of (by decide +kernel), by decide +kernel, fun h => absurd h (by decide +kernel), by decide +kernel, ?_⟩
  · intro k hk hku
    have h0 : (0 : BitVec 128).extractLsb' (8 * k) 8 = 0 := by simp
    rw [h0]
    exact byteIs_alone rfl (hb k (hu k hk hku))
  · refine ⟨0, by decide +kernel, ?_⟩
    intro k hk hku
    rw [hn k hk] at hku
    cases hku

/-- An operand in the local APIC. -/
def device : State := withX start 0 0xFEE00000

theorem test_wit_DeviceOperandRefused :
    Ready (.pmaxsdXmm sseMem) device ∧
    operandOf (.pmaxsdXmm sseMem) device =
      some { place := { seg := .ds, narrow := false, ea := 0xFEE00000 }, bytes := 16 } ∧
    AlignmentMet (.pmaxsdXmm sseMem) device { place := { seg := .ds, narrow := false, ea := 0xFEE00000 }, bytes := 16 } ∧
    (∀ k < 16, badByte device { seg := .ds, narrow := false, ea := 0xFEE00000 } k = false ∧
      (translate device (byteLinear device { seg := .ds, narrow := false, ea := 0xFEE00000 } k)).isOk = true) ∧
    byteRegion device { seg := .ds, narrow := false, ea := 0xFEE00000 } 0 ≠ none := by
  refine ⟨ready_of ?_, ?_, ⟨?_, ?_⟩, ?_, ?_⟩ <;> decide +kernel

theorem test_wit_RefusedLaunchStates :
    State.reset.mode ≠ .long64 ∧ State.reset.mode ≠ .prot32 ∧
    eflagsTf { start with eflags := 0x102 } = true ∧ breakpointOn { start with dr7 := 0x401 } = true ∧
    eflagsTf { start with dr7 := 0x401 } = false := by decide +kernel

/-- Processor 1 writes data, then a flag; processor 2 writes a third byte after it has seen the flag. -/
def writeData : OtherWrite := { id := 1, writer := 1, kind := .ordinary, address := 0x2001, bytes := [0xAA], after := [] }
def writeFlag : OtherWrite := { id := 2, writer := 1, kind := .ordinary, address := 0x2000, bytes := [0xBB, 0xCC], after := [] }
def writeThird : OtherWrite := { id := 3, writer := 2, kind := .ordinary, address := 0x2002, bytes := [0xDD], after := [2] }

/-- Only the first write of a processor, and only one that follows no pending write, may become visible. -/
theorem test_other_writes_order :
    [writeThird, writeData, writeFlag].filter (mayLand [writeThird, writeData, writeFlag]) = [writeData] ∧
    [writeThird, writeFlag].filter (mayLand [writeThird, writeFlag]) = [writeFlag] ∧
    [writeThird].filter (mayLand [writeThird]) = [writeThird] := by decide +kernel

/-- A non-temporal store may pass an earlier write of its processor, and a later write may pass a string store. -/
theorem test_other_writes_exceptions :
    (let late := { writeFlag with kind := .nonTemporal }
     [writeData, late].filter (mayLand [writeData, late]) = [writeData, late]) ∧
    (let early := { writeData with kind := .string }
     [early, writeFlag].filter (mayLand [early, writeFlag]) = [early, writeFlag]) := by decide +kernel

/-- A read gives the byte of the last visible write, and memory's where there is none (`data` holds 1, 2, 3, …). -/
theorem test_other_writes_read :
    (List.range 4).map (fun k => dataByte { data with landed := [writeFlag, writeData] } place 8 (0x2000 + k)) =
      [0xBB, 0xCC, 3, 4] := by decide +kernel

theorem test_wit_OtherWritersBytesAreWritten :
    operandOf (.pmaxswMmx mmxMem) data = some { place := place, bytes := 8 } ∧
    (byteLinear data place 0).toNat % 8 = 0 ∧
    (∀ k < 8, (byteLinear data place k).toNat = (byteLinear data place 0).toNat + k) ∧
    atomicRead data place 8 = true ∧ atomicRead data place 16 = false ∧ atomicRead odd { place with ea := 0x2001 } 8 = false := by
  decide +kernel

theorem test_wit_OtherWritesSeenInOrder :
    (∃ t, Sys2Proof.core.run (0 + 1) (poke start 0x1000 [0x0F, 0xEE, 0xC1]) = .next t) ∧
    Lands [writeThird, writeData, writeFlag] [] [] [writeThird, writeFlag, writeData] ∧
    (([writeThird, writeData, writeFlag] ++ ([] : List OtherWrite)).map (fun w => w.id)).Nodup ∧
    writeFlag.id ∈ writeThird.after ∧ keepsOrder writeData writeFlag = true ∧
    [writeThird, writeData, writeFlag] = [writeThird] ++ writeData :: [] ++ writeFlag :: [] ∧
    (let late := { writeFlag with kind := .nonTemporal }
     (∀ u ∈ [writeData] ++ late :: [], u.id ∉ late.after) ∧ late.writer = writeData.writer ∧ late.kind ≠ .ordinary) :=
  ⟨next_of (by decide +kernel),
    .more (.more (.more .none (w := writeData) (by decide) (by decide)) (w := writeFlag) (by decide) (by decide))
      (w := writeThird) (by decide) (by decide),
    by decide, by decide, rfl, rfl, by decide⟩

/-- `R13` is no stack base, `RBP` is, and an override replaces either. -/
theorem test_default_segment :
    (placeOf start noPrefixes 1 4 (.base 13 (.disp8 0))).seg = .ds ∧
    (placeOf start noPrefixes 1 4 (.base 5 (.disp8 0))).seg = .ss ∧
    (placeOf start { noPrefixes with seg := some .gs } 1 4 (.sib 0 none 4 .none)).seg = .gs := by decide +kernel

theorem test_wit_EffectiveAddressAsInteger :
    (start.mode = .long64 ∨ start.mode = .prot32) ∧ (flat.mode = .long64 ∨ flat.mode = .prot32) := by decide +kernel

theorem test_wit_LinearAddressAsInteger : start.mode = .long64 ∧ flat.mode = .prot32 := by decide +kernel

theorem test_wit_DecodeOfEncode :
    (Instr.vpmaxsqEvex512 { evexBroadcast with d := 31, src := .mem (.sibNoBase 3 (some 15) 0x80000000) }).wf .long64
      = true ∧
    (Instr.pmaxsbXmm sseMem).wf .prot32 = true := by decide +kernel

theorem test_wit_DecodedIsWellFormedAndLong :
    decode .long64 [0x0F, 0xEE, 0xC1] = .ok (.pmaxswMmx mmxReg, []) := by decide +kernel

theorem test_wit_ShortVexMeansLongVex : ∀ d, vexMem.src ≠ .mem (.pcRelative d) := by
  intro d h
  cases h

theorem test_wit_StepRunsTheDecodedInstruction :
    Launchable (poke start 0x1000 [0x0F, 0xEE, 0xC1]) ∧
    decode .long64 (fetched start [0x0F, 0xEE, 0xC1]) = .ok (.pmaxswMmx mmxReg, List.replicate 12 0) ∧
    decode .long64 (fetched start [0x62, 0xF6, 0x6D, 0x08]) = .error .evexReservedBits ∧
    decode .long64 (fetched start [0x0F, 0xDE]) = .error .notOfFamily := by
  refine ⟨launchable_of ?_, ?_, ?_, ?_⟩ <;> decide +kernel

/-- The invariant of a state whose vector registers are 0 and whose memory is canonical. -/
theorem inv_of {s : State} (hm : Memory.wf s.mem = true) (hv : s.v = Vector.replicate 32 0) (hl : s.mode = .long64)
    (hx : s.xcr0.getLsbD 0 = true) : Inv s where
  memory := hm
  vectorBits := by intro i n _; simp [hv]
  highVectors := by intro _ i _; simp [hv]
  narrowPc := by intro h; simp [hl] at h
  x87Enabled := hx

theorem test_wit_StepKeepsInvariant :
    Inv (poke start 0x1000 [0x0F, 0xEE, 0xC1]) ∧ ∃ t, step (poke start 0x1000 [0x0F, 0xEE, 0xC1]) = .next t :=
  ⟨inv_of (by decide +kernel) rfl rfl (by decide +kernel), next_of (by decide +kernel)⟩

theorem test_wit_RunKeepsFrameAndInvariant :
    ∃ t, Sys2Proof.core.run 2 (poke start 0x1000 [0x0F, 0xEE, 0xC1, 0x0F, 0xEE, 0xC1]) = .next t :=
  next_of (by decide +kernel)

theorem test_wit_BootMakesFormsReady :
    featuresClosed State.reset.features = true ∧ hasAll State.reset.features (rowFeatures (.vpmaxsbEvex128 evexReg)) = true ∧
    illegalBeforeVex evexReg.pfx = false ∧ EvexAllowed false evexReg :=
  ⟨by decide +kernel, by decide +kernel, rfl, (evexReservedForm_false_iff _ _).1 (by decide +kernel)⟩

theorem test_wit_CanonicalMemoriesAreEqual :
    Memory.wf (writeByte (writeByte [] 4 1) 2 3) = true ∧ Memory.wf (writeByte (writeByte [] 2 3) 4 1) = true := by
  decide +kernel

end Sys2Proof.Tests
end

section
/-! PROOFS. The lane arithmetic of 00_scope R16 to R21: smax read as a maximum of integers, values given by their
lanes. -/

namespace Sys2Proof.Machine

/-! ## smax as a maximum of integers -/

theorem smax_of_gt {N : Nat} {a b : BitVec N} (h : a.toInt > b.toInt) : smax a b = a := if_pos h

theorem smax_of_not_gt {N : Nat} {a b : BitVec N} (h : ¬a.toInt > b.toInt) : smax a b = b := if_neg h

theorem smax_of_le {N : Nat} {a b : BitVec N} (h : a.toInt ≤ b.toInt) : smax a b = b := smax_of_not_gt (not_lt.2 h)

theorem smax_eq_or {N : Nat} (a b : BitVec N) : smax a b = a ∨ smax a b = b := ite_eq_or_eq _ _ _

/-- The integer reading turns `smax` into `max`, so its laws are those of `max`. -/
theorem smax_toInt {N : Nat} (a b : BitVec N) : (smax a b).toInt = max a.toInt b.toInt := by
  by_cases h : a.toInt > b.toInt
  · rw [smax_of_gt h, max_eq_left_of_lt h]
  · rw [smax_of_not_gt h, max_eq_right (not_lt.1 h)]

theorem smax_comm {N : Nat} (a b : BitVec N) : smax a b = smax b a :=
  BitVec.eq_of_toInt_eq (by rw [smax_toInt, smax_toInt, max_comm])

theorem smax_assoc {N : Nat} (a b c : BitVec N) : smax (smax a b) c = smax a (smax b c) :=
  BitVec.eq_of_toInt_eq (by simp only [smax_toInt, max_assoc])

/-- A value with the top bit set reads below every value with the top bit clear. -/
theorem toInt_lt_of_msb {N : Nat} {a b : BitVec N} (ha : a.msb = true) (hb : b.msb = false) : a.toInt < b.toInt :=
  lt_of_lt_of_le (BitVec.toInt_neg_of_msb_true ha) (BitVec.toInt_nonneg_of_msb_false hb)

/-- The two's-complement reading by the top bit (R16). -/
theorem toInt_eq_toNat_sub_msb {N : Nat} (a : BitVec N) :
    a.toInt = (a.toNat : Int) - 2 ^ N * (a.msb.toNat : Int) := by
  rw [BitVec.toInt_eq_msb_cond]
  cases a.msb <;> simp

/-! ## Values given by their lanes -/

/-- A value is given by its lanes where they fill it. -/
theorem eq_of_lanes_eq {N VL : Nat} (hN : 0 < N) (hd : N ∣ VL) {r r' : BitVec VL}
    (h : ∀ j < VL / N, lane N r j = lane N r' j) : r = r' := by
  apply BitVec.eq_of_getLsbD_eq
  intro p hp
  have hj : p / N < VL / N := Nat.div_lt_div_of_lt_of_dvd hd hp
  have hbit := congrArg (fun v => v.getLsbD (p % N)) (h _ hj)
  simpa [lane_getLsbD _ _ _ _ (Nat.mod_lt p hN), Nat.div_add_mod'] using hbit

/-- Packed lanes are the one value that has them. -/
theorem eq_packLanes_iff {N VL : Nat} (hN : 0 < N) (hd : N ∣ VL) (f : Nat → BitVec N) (r : BitVec VL) :
    r = packLanes N VL f (VL / N) ↔ ∀ j < VL / N, lane N r j = f j := by
  have hf : ∀ j < VL / N, lane N (packLanes N VL f (VL / N)) j = f j :=
    fun j hj => lane_packLanes N VL f _ j hj (lanes_fit N VL)
  constructor
  · rintro rfl
    exact hf
  · intro h
    exact eq_of_lanes_eq hN hd fun j hj => (h j hj).trans (hf j hj).symm

/-- Only the lanes packed matter. -/
theorem packLanes_congr {N VL : Nat} {f g : Nat → BitVec N} {n : Nat} (h : ∀ j < n, f j = g j) :
    packLanes N VL f n = packLanes N VL g n := by
  induction n with
  | zero => rfl
  | succ n ih => rw [packLanes, packLanes, ih fun j hj => h j (Nat.lt_succ_of_lt hj), h n (Nat.lt_succ_self n)]

/-- Lane `j` of `MASKED` (R21). -/
theorem lane_maskMerge (N VL : Nat) (r old : BitVec VL) (k : Qword) (masked z : Bool) (j : Nat) (hj : j < VL / N) :
    lane N (maskMerge N VL r old k masked z) j =
      if laneActive k masked j then lane N r j else if z then 0 else lane N old j :=
  lane_packLanes N VL _ _ j hj (lanes_fit N VL)

/-- `MASKED` reads its mask at the lanes only (R21). -/
theorem maskMerge_congr {N VL : Nat} (r old : BitVec VL) {k k' : Qword} {masked : Bool} (z : Bool)
    (h : ∀ j < VL / N, laneActive k masked j = laneActive k' masked j) :
    maskMerge N VL r old k masked z = maskMerge N VL r old k' masked z :=
  packLanes_congr fun j hj => by rw [h j hj]

theorem laneActive_iff (k : Qword) (masked : Bool) (j : Nat) :
    laneActive k masked j = true ↔ masked = false ∨ k.getLsbD j = true := by
  simp [laneActive]

/-- Without a writemask every lane is written, and a writemask counts by its bit. -/
theorem laneActive_congr {k k' : Qword} {masked : Bool} {j : Nat}
    (h : masked = true → k.getLsbD j = k'.getLsbD j) : laneActive k masked j = laneActive k' masked j := by
  cases masked with
  | false => rfl
  | true => simp [laneActive, h rfl]

/-- The element sizes of the family divide the vector lengths. -/
theorem elementBits_dvd_length : ∀ N ∈ [8, 16, 32, 64], ∀ VL ∈ [64, 128, 256, 512], 0 < N ∧ N ∣ VL := by decide

end Sys2Proof.Machine
end

section
/-! PROOFS. What `exec` is on each layout, what it can leave, and when it commutes with a change of the state. -/

namespace Sys2Proof.Machine

open Sys2Proof.Safety

/-! ## exec by layout -/

theorem rowFeatures_of_mmx {i : Instr} {o : MmxOperands} (h : shapeOf i = .mmx o) : rowFeatures i = [.sse] := by
  cases i <;> cases h
  rfl

/-- Row 1 runs the MMX layout. -/
theorem exec_of_mmx {i : Instr} {o : MmxOperands} (h : shapeOf i = .mmx o) (s : State) :
    exec i s = runMmx 16 o i.length s := by
  cases i <;> cases h
  rfl

/-- Rows 2 to 4 run the legacy layout, on their element size and feature. -/
theorem exec_of_sse {i : Instr} {o : SseOperands} (h : shapeOf i = .sse o) :
    ∃ flag, rowFeatures i = [flag] ∧ ∀ s, exec i s = runSse (elementBits i) flag o i.length s := by
  cases i <;> cases h <;> exact ⟨_, rfl, fun _ => rfl⟩

/-- Rows 5 to 10 run the VEX layout, on their element size, length and feature. -/
theorem exec_of_vex {i : Instr} {o : VexOperands} (h : shapeOf i = .vex o) :
    ∃ flag, rowFeatures i = [flag] ∧
      ∀ s, exec i s = runVex (elementBits i) (vectorLength i) flag o i.length s := by
  cases i <;> cases h <;> exact ⟨_, rfl, fun _ => rfl⟩

/-- Rows 11 to 22 run the EVEX layout, on their element size, length and features. -/
theorem exec_of_evex {i : Instr} {broadcast : Bool} {o : EvexOperands} (h : shapeOf i = .evex broadcast o) (s : State) :
    exec i s = runEvex (elementBits i) (vectorLength i) (rowFeatures i) broadcast o i.length s := by
  cases i <;> cases h <;> rfl

/-- The elements of an EVEX form are whole bytes that fill its vector. -/
theorem evex_sizes {i : Instr} {broadcast : Bool} {o : EvexOperands} (h : shapeOf i = .evex broadcast o) :
    8 ∣ elementBits i ∧ elementBits i ∣ vectorLength i := by
  cases i <;> cases h <;> simp [elementBits, vectorLength]

/-! ## What a completed form leaves -/

/-- The next states of an instruction: the result of its layout for some second source. -/
inductive Completed (i : Instr) (s : State) : State → Prop where
  | mmx (o : MmxOperands) (shape : shapeOf i = .mmx o) (b : Qword) (source : mmxSource o i.length s = .ok b) :
      Completed i s (mmxResult 16 o i.length b s)
  | sse (o : SseOperands) (shape : shapeOf i = .sse o) (b : BitVec 128) (source : sseSource o i.length s = .ok b) :
      Completed i s (sseResult (elementBits i) o i.length b s)
  | vex (o : VexOperands) (shape : shapeOf i = .vex o) (b : BitVec (vectorLength i))
      (source : vexSource (vectorLength i) o i.length s = .ok b) :
      Completed i s (vexResult (elementBits i) (vectorLength i) o i.length b s)
  | evex (broadcast : Bool) (o : EvexOperands) (shape : shapeOf i = .evex broadcast o) (b : BitVec (vectorLength i))
      (source : evexSource (elementBits i) (vectorLength i) o i.length s = .ok b) :
      Completed i s (evexResult (elementBits i) (vectorLength i) o i.length b s)

/-- An instruction that answers a next state passed its checks and left its layout's result. -/
theorem exec_next {i : Instr} {s t : State} (h : exec i s = .next t) : Ready i s ∧ Completed i s t := by
  cases hs : shapeOf i with
  | mmx o =>
    have hf := rowFeatures_of_mmx hs
    rw [exec_of_mmx hs, runMmx_next_iff, checkMmx_none_iff] at h
    obtain ⟨⟨hl, hlock, hsse, hem, hosfxsr, hts, hpending⟩, b, hb, rfl⟩ := h
    exact ⟨by simp [Ready, Decodable, hasAll_one, *], .mmx o hs b hb⟩
  | sse o =>
    obtain ⟨flag, hf, hrun⟩ := exec_of_sse hs
    rw [hrun, runSse_next_iff, checkSse_none_iff] at h
    obtain ⟨⟨hl, hlock, hflag, hem, hosfxsr, hts⟩, b, hb, rfl⟩ := h
    exact ⟨by simp [Ready, Decodable, hasAll_one, *], .sse o hs b hb⟩
  | vex o =>
    obtain ⟨flag, hf, hrun⟩ := exec_of_vex hs
    rw [hrun, runVex_next_iff, checkVex_none_iff] at h
    obtain ⟨⟨hl, hpfx, hosxsave, havx, hflag, hts⟩, b, hb, rfl⟩ := h
    exact ⟨by simp [Ready, Decodable, hasAll_one, *], .vex o hs b hb⟩
  | evex broadcast o =>
    rw [exec_of_evex hs, runEvex_next_iff, checkEvex_none_iff] at h
    obtain ⟨⟨hl, hpfx, hallowed, hosxsave, havx, havx512, hflags, hts⟩, b, hb, rfl⟩ := h
    exact ⟨by simp [Ready, Decodable, *], .evex broadcast o hs b hb⟩

/-- A step that answers a next state ran some instruction. -/
theorem step_next {s t : State} (h : step s = .next t) : ∃ i, exec i s = .next t := by
  simp only [step] at h
  split at h
  · cases h
  · split at h
    · exact ⟨_, h⟩
    · simp only [undecodable, raise] at h
      split at h <;> cases h

/-! ## A change of the state that a form does not see -/

/-- What every layout does: a check, then the second source, then the result. -/
def answer {α : Type} (check : Option Stop) (source : Except Stop α) (result : α → State) :
    Host.Outcome State Fault Refusal :=
  match check with
  | some e => e.outcome
  | none =>
    match source with
    | .error e => e.outcome
    | .ok b => .next (result b)

theorem runMmx_eq_answer (N : Nat) (o : MmxOperands) (len : Nat) (s : State) :
    runMmx N o len s = answer (checkMmx o.pfx s) (mmxSource o len s) (fun b => mmxResult N o len b s) := by
  rw [runMmx]
  cases checkMmx o.pfx s <;> cases mmxSource o len s <;> rfl

theorem runSse_eq_answer (N : Nat) (flag : Feature) (o : SseOperands) (len : Nat) (s : State) :
    runSse N flag o len s = answer (checkSse flag o.pfx s) (sseSource o len s) (fun b => sseResult N o len b s) := by
  rw [runSse]
  cases checkSse flag o.pfx s <;> cases sseSource o len s <;> rfl

theorem runVex_eq_answer (N VL : Nat) (flag : Feature) (o : VexOperands) (len : Nat) (s : State) :
    runVex N VL flag o len s =
      answer (checkVex flag o.pfx s) (vexSource VL o len s) (fun b => vexResult N VL o len b s) := by
  rw [runVex]
  cases checkVex flag o.pfx s <;> cases vexSource VL o len s <;> rfl

theorem runEvex_eq_answer (N VL : Nat) (flags : List Feature) (broadcast : Bool) (o : EvexOperands) (len : Nat)
    (s : State) :
    runEvex N VL flags broadcast o len s =
      answer (checkEvex flags broadcast o s) (evexSource N VL o len s) (fun b => evexResult N VL o len b s) := by
  rw [runEvex]
  cases checkEvex flags broadcast o s <;> cases evexSource N VL o len s <;> rfl

/-- Where the results differ by `f`, the outcomes do; a stop is the same. -/
theorem answer_mapNext {α : Type} {f : State → State} (check : Option Stop) (source : Except Stop α)
    {result result' : α → State} (h : ∀ b, result' b = f (result b)) :
    answer check source result' = mapNext f (answer check source result) := by
  have stop : ∀ e : Stop, e.outcome = mapNext f e.outcome := by intro e; cases e <;> rfl
  cases check with
  | some e => exact stop e
  | none =>
    cases source with
    | error e => exact stop e
    | ok b => exact congrArg _ (h b)

section MapNext

variable {f : State → State} {s : State}

theorem runMmx_mapNext {N : Nat} {o : MmxOperands} {len : Nat} (check : checkMmx o.pfx (f s) = checkMmx o.pfx s)
    (source : mmxSource o len (f s) = mmxSource o len s)
    (result : ∀ b, mmxResult N o len b (f s) = f (mmxResult N o len b s)) :
    runMmx N o len (f s) = mapNext f (runMmx N o len s) := by
  rw [runMmx_eq_answer, runMmx_eq_answer, check, source]
  exact answer_mapNext _ _ result

theorem runSse_mapNext {N : Nat} {flag : Feature} {o : SseOperands} {len : Nat}
    (check : checkSse flag o.pfx (f s) = checkSse flag o.pfx s) (source : sseSource o len (f s) = sseSource o len s)
    (result : ∀ b, sseResult N o len b (f s) = f (sseResult N o len b s)) :
    runSse N flag o len (f s) = mapNext f (runSse N flag o len s) := by
  rw [runSse_eq_answer, runSse_eq_answer, check, source]
  exact answer_mapNext _ _ result

theorem runVex_mapNext {N VL : Nat} {flag : Feature} {o : VexOperands} {len : Nat}
    (check : checkVex flag o.pfx (f s) = checkVex flag o.pfx s) (source : vexSource VL o len (f s) = vexSource VL o len s)
    (result : ∀ b, vexResult N VL o len b (f s) = f (vexResult N VL o len b s)) :
    runVex N VL flag o len (f s) = mapNext f (runVex N VL flag o len s) := by
  rw [runVex_eq_answer, runVex_eq_answer, check, source]
  exact answer_mapNext _ _ result

theorem runEvex_mapNext {N VL : Nat} {flags : List Feature} {broadcast : Bool} {o : EvexOperands} {len : Nat}
    (check : checkEvex flags broadcast o (f s) = checkEvex flags broadcast o s)
    (source : evexSource N VL o len (f s) = evexSource N VL o len s)
    (result : ∀ b, evexResult N VL o len b (f s) = f (evexResult N VL o len b s)) :
    runEvex N VL flags broadcast o len (f s) = mapNext f (runEvex N VL flags broadcast o len s) := by
  rw [runEvex_eq_answer, runEvex_eq_answer, check, source]
  exact answer_mapNext _ _ result

end MapNext

end Sys2Proof.Machine
end

section
/-! PROOFS. The machine's invariant: every write of a form keeps it, so every instruction and every step does. -/

namespace Sys2Proof.Machine

open Sys2Proof.Safety

/-! ## Vector lengths and MAXVL -/

/-- A processor with an EVEX form's features has 512-bit registers (00_scope R6). -/
theorem maxvl_of_evex {i : Instr} {broadcast : Bool} {o : EvexOperands} (h : shapeOf i = .evex broadcast o)
    {fs : Features} (hf : hasAll fs (rowFeatures i) = true) : maxvl fs = 512 := by
  cases i <;> cases h <;> simp [rowFeatures, hasAll, hasFeature] at hf <;> simp [maxvl, hf]

/-- AVX gives 256-bit registers at least (00_scope R6). -/
theorem maxvl_of_avx {fs : Features} (h : fs.avx = true) : 256 ≤ maxvl fs := by
  simp only [maxvl, h]
  split <;> simp

/-- AVX2 implies AVX (60_exceptions R213). -/
theorem avx_of_avx2 {fs : Features} (hc : featuresClosed fs = true) (h : fs.avx2 = true) : fs.avx = true := by
  simp only [featuresClosed, Bool.and_eq_true, Bool.or_eq_true, Bool.not_eq_true'] at hc
  simp_all

/-- A processor with a VEX form's features has registers of the form's length. -/
theorem vectorLength_le_maxvl_of_vex {i : Instr} {o : VexOperands} (h : shapeOf i = .vex o) {fs : Features}
    (hc : featuresClosed fs = true) (hf : hasAll fs (rowFeatures i) = true) : vectorLength i ≤ maxvl fs := by
  have havx : fs.avx = true := by
    cases i <;> cases h <;> simp [rowFeatures, hasAll, hasFeature] at hf <;> simp [hf, avx_of_avx2 hc]
  have hlen : vectorLength i ≤ 256 := by cases i <;> cases h <;> simp [vectorLength]
  exact hlen.trans (maxvl_of_avx havx)

theorem vectorLength_le (i : Instr) : vectorLength i ≤ 512 := by
  cases i <;> simp [vectorLength]

theorem le_maxvl (fs : Features) : 128 ≤ maxvl fs := by
  unfold maxvl
  split
  · decide
  · split <;> decide

/-! ## What keeps the invariant -/

/-- A vector write keeps the invariant where it writes a register that exists, and no bit that does not. -/
theorem inv_writeV {s : State} (h : Inv s) {i : Fin 32} {w : VReg}
    (bits : ∀ n, maxvl s.features ≤ n → w.getLsbD n = false) (low : maxvl s.features < 512 → i.val < 16) :
    Inv (writeV s i w) where
  memory := h.memory
  vectorBits j n hn := by
    rw [writeV_get]
    split
    · exact bits n hn
    · exact h.vectorBits j n hn
  highVectors hlt j hj := by
    have hne : j ≠ i := fun e => absurd (low hlt) (not_lt.2 (e ▸ hj))
    rw [writeV_get, if_neg hne]
    exact h.highVectors hlt j hj
  narrowPc := h.narrowPc
  x87Enabled := h.x87Enabled

/-- A legacy write keeps the invariant: the bits above its result are those of the old value. -/
theorem inv_writeXmmKeep {s : State} (h : Inv s) {i : Fin 32} (hi : i.val < 16) (w : BitVec 128) :
    Inv (writeXmmKeep s i w) := by
  refine inv_writeV h (fun n hn => ?_) fun _ => hi
  rw [keepUpper_getLsbD, if_neg (not_lt.2 ((le_maxvl _).trans hn))]
  exact h.vectorBits i n hn

/-- A VEX or EVEX write keeps the invariant where the processor has registers of its length. -/
theorem inv_writeVZero {s : State} (h : Inv s) {i : Fin 32} {VL : Nat} (w : BitVec VL)
    (len : VL ≤ maxvl s.features) (low : maxvl s.features < 512 → i.val < 16) : Inv (writeVZero s i w) := by
  refine inv_writeV h (fun n hn => ?_) low
  rw [BitVec.getLsbD_setWidth, BitVec.getLsbD_of_ge w n (len.trans hn), Bool.and_false]

theorem inv_writeMm {s : State} (h : Inv s) (i : Fin 8) (w : Qword) : Inv (writeMm s i w) where
  memory := h.memory
  vectorBits := h.vectorBits
  highVectors := h.highVectors
  narrowPc := h.narrowPc
  x87Enabled := h.x87Enabled

/-- Completing keeps the invariant: `pc` is cut to 32 bits in `Prot32`. -/
theorem inv_retire {s : State} (h : Inv s) (len : Nat) : Inv (retire len s) where
  memory := h.memory
  vectorBits := h.vectorBits
  highVectors := h.highVectors
  narrowPc hmode := by
    rw [retire_pc, pcPlus_prot32 s len hmode]
    exact low32_toNat_lt _
  x87Enabled := h.x87Enabled

/-- A legacy or VEX form writes one of the first sixteen vector registers (10_state R59). -/
theorem vreg_lt (r : Fin 16) : (vreg r).val < 16 := r.isLt

/-- Every instruction keeps the invariant: its checks found the features that its vector length and destination need. -/
theorem exec_keeps_inv {i : Instr} {s t : State} (hi : Inv s) (h : exec i s = .next t) : Inv t := by
  obtain ⟨⟨⟨_, _, _, hclosed⟩, ⟨hfeatures, _⟩, _⟩, hdone⟩ := exec_next h
  cases hdone with
  | mmx o _ b => exact inv_retire (inv_writeMm hi _ _) _
  | sse o _ b => exact inv_retire (inv_writeXmmKeep hi (vreg_lt o.d) _) _
  | vex o hs b =>
    exact inv_retire (inv_writeVZero hi _ (vectorLength_le_maxvl_of_vex hs hclosed hfeatures) fun _ => vreg_lt o.d) _
  | evex broadcast o hs b =>
    have hmax := maxvl_of_evex hs hfeatures
    exact inv_retire (inv_writeVZero hi _ (hmax ▸ vectorLength_le i) fun hlt => absurd hlt (by omega)) _

end Sys2Proof.Machine
end

section
/-! PROOFS. The opmasks: a form sees them through the lanes of its writemask alone (10_state R64, R65). -/

namespace Sys2Proof.Machine

open Sys2Proof.Safety

/-- The state with its opmasks replaced. -/
def withK (k : Vector Qword 8) (s : State) : State := { s with k := k }

@[simp] theorem readK_withK (k : Vector Qword 8) (s : State) (i : Fin 8) : readK (withK k s) i = k.get i := rfl

@[simp] theorem memRead_withK (k : Vector Qword 8) (s : State) (pl : Place) (n : Nat) (rule : AlignRule) (masked : Bool)
    (active : Nat → Bool) : memRead (withK k s) pl n rule masked active = memRead s pl n rule masked active := rfl

@[simp] theorem placeOf_withK (k : Vector Qword 8) (s : State) (p : Prefixes) (n len : Nat) (m : MemOperand) :
    placeOf (withK k s) p n len m = placeOf s p n len m := rfl

@[simp] theorem readV_withK (VL : Nat) (k : Vector Qword 8) (s : State) (i : Fin 32) :
    readV VL (withK k s) i = readV VL s i := rfl

/-- A memory read asks only of its own bytes whether they are in use. -/
theorem memRead_congr_active (s : State) (pl : Place) (n : Nat) (rule : AlignRule) (masked : Bool)
    {active active' : Nat → Bool} (h : ∀ k < n, active k = active' k) :
    memRead s pl n rule masked active = memRead s pl n rule masked active' := by
  have hc : countedBytes s n masked active = countedBytes s n masked active' :=
    List.filter_congr fun k hk => by rw [h k (List.mem_range.1 hk)]
  simp only [memRead, hc]

/-- A byte of the operand belongs to one of the `VL / N` elements. -/
theorem byteLane_lt {N VL n : Nat} (hN : 8 ∣ N) (hd : N ∣ VL) (hn : n < VL / 8) : n / (N / 8) < VL / N := by
  rw [← Nat.div_div_div_eq_div hN hd, Nat.div_right_comm]
  exact Nat.div_lt_div_of_lt_of_dvd (Nat.div_dvd_div hN hd) hn

section Lanes

variable {N VL : Nat} {o : EvexOperands} {s : State} {k : Vector Qword 8}

/-- The second source of an EVEX form sees of its writemask which lanes it writes. -/
theorem evexSource_withK (hN : 8 ∣ N) (hd : N ∣ VL) (len : Nat)
    (h : ∀ j < VL / N, laneActive (k.get o.aaa) (isMasked o) j = laneActive (readK s o.aaa) (isMasked o) j) :
    evexSource N VL o len (withK k s) = evexSource N VL o len s := by
  have hany : anyActive N VL o (withK k s) = anyActive N VL o s := by
    simp only [anyActive, readK_withK]
    rw [Bool.eq_iff_iff, List.any_eq_true, List.any_eq_true]
    exact exists_congr fun j => and_congr_right fun hj => by rw [h j (List.mem_range.1 hj)]
  have hbyte : ∀ n < VL / 8, byteActive N o (withK k s) n = byteActive N o s n := by
    intro n hn
    exact h _ (byteLane_lt hN hd hn)
  cases hs : o.src with
  | reg r => simp [evexSource, hs]
  | mem m => simp only [evexSource, hs, hany, memRead_withK, placeOf_withK, memRead_congr_active _ _ _ _ _ hbyte]

/-- The result of an EVEX form sees of its writemask which lanes it writes. -/
theorem evexResult_withK (len : Nat) (b : BitVec VL)
    (h : ∀ j < VL / N, laneActive (k.get o.aaa) (isMasked o) j = laneActive (readK s o.aaa) (isMasked o) j) :
    evexResult N VL o len b (withK k s) = withK k (evexResult N VL o len b s) := by
  simp only [evexResult, readV_withK, readK_withK, maskMerge_congr _ _ _ h]
  rfl

end Lanes

/-- An instruction commutes with a change of the opmasks that its writemask's lanes do not see. -/
theorem exec_withK (i : Instr) (s : State) (k : Vector Qword 8)
    (h : ∀ broadcast o, shapeOf i = .evex broadcast o → ∀ j < vectorLength i / elementBits i,
      laneActive (k.get o.aaa) (isMasked o) j = laneActive (readK s o.aaa) (isMasked o) j) :
    exec i (withK k s) = mapNext (withK k) (exec i s) := by
  cases hs : shapeOf i with
  | mmx o =>
    rw [exec_of_mmx hs, exec_of_mmx hs]
    exact runMmx_mapNext rfl rfl fun _ => rfl
  | sse o =>
    obtain ⟨flag, -, hrun⟩ := exec_of_sse hs
    rw [hrun, hrun]
    exact runSse_mapNext rfl rfl fun _ => rfl
  | vex o =>
    obtain ⟨flag, -, hrun⟩ := exec_of_vex hs
    rw [hrun, hrun]
    exact runVex_mapNext rfl rfl fun _ => rfl
  | evex broadcast o =>
    obtain ⟨hbytes, hfill⟩ := evex_sizes hs
    have hlanes := h broadcast o hs
    rw [exec_of_evex hs, exec_of_evex hs]
    exact runEvex_mapNext rfl (evexSource_withK hbytes hfill _ hlanes) fun b => evexResult_withK _ b hlanes

end Sys2Proof.Machine
end

section
/-! PROOFS. The statements of 00_scope and the invariant settled. -/

namespace Sys2Proof.Proofs

open Sys2Proof.Machine Sys2Proof.Safety

/-- Settles O1: R16's reading by the top bit, and R17's choice as `smax` is defined. -/
theorem smaxIsSignedMaximum : Obligations.SmaxIsSignedMaximum :=
  fun _ a _ _ => ⟨⟨toInt_eq_toNat_sub_msb a, BitVec.le_toInt a, BitVec.toInt_le⟩, smax_of_gt, smax_of_not_gt⟩

/-- Settles O2: `smax` is `max` on the integer readings, which tell values apart. -/
theorem smaxLaws : Obligations.SmaxLaws := by
  refine ⟨fun _ a b c _ => ⟨smax_eq_or a b, smax_comm a b, smax_of_le le_rfl, ?_, ?_, fun ha hb => ?_,
    smax_assoc a b c, smax_toInt a b⟩, by decide, by decide⟩
  · exact smax_of_le (BitVec.toInt_intMin_le b)
  · rw [smax_comm]
    exact smax_of_le (BitVec.toInt_intMax ▸ BitVec.toInt_le)
  · have hlt := toInt_lt_of_msb ha hb
    exact ⟨hlt, smax_of_le hlt.le⟩

/-- Settles O3: `PMAXS` packs the lane maxima. -/
theorem pmaxsLaneByLane : Obligations.PmaxsLaneByLane := by
  intro N hN VL hVL a b r
  obtain ⟨hpos, hd⟩ := elementBits_dvd_length N hN VL hVL
  exact eq_packLanes_iff hpos hd _ r

/-- Settles O4: `BCAST` packs one value in every lane. -/
theorem bcastEveryLane : Obligations.BcastEveryLane := by
  intro N hN VL hVL e r
  obtain ⟨hpos, hd⟩ := elementBits_dvd_length N hN VL hVL
  exact eq_packLanes_iff hpos hd _ r

/-- Settles O5: lane by lane, and the mask is asked at the lanes alone. -/
theorem maskedLaneByLane : Obligations.MaskedLaneByLane := by
  intro N _ VL _ r old k masked z
  constructor
  · intro j hj
    rw [lane_maskMerge N VL r old k masked z j hj]
    simp only [laneActive_iff]
    cases z <;> rfl
  · intro k' hk
    exact maskMerge_congr r old z fun j hj => laneActive_congr fun _ => hk j hj

/-- Settles O18: a form sees the opmasks through the lanes of its writemask, and without one it writes every lane. -/
theorem opmaskReadOnlyBelowElementCount : Obligations.OpmaskReadOnlyBelowElementCount := by
  intro i s k h
  refine exec_withK i s k fun broadcast o hs j hj => laneActive_congr fun hmasked => ?_
  have haaa : o.aaa ≠ 0 := by simpa [isMasked] using hmasked
  exact h broadcast o hs haaa j hj

/-- Settles O51: a step that answers a next state ran an instruction, and every instruction keeps the invariant. -/
theorem stepKeepsInvariant : Obligations.StepKeepsInvariant := by
  intro s t hi h
  obtain ⟨i, hexec⟩ := step_next h
  exact exec_keeps_inv hi hexec

/-- Settles O52: every vector register is 0 at reset, memory is empty, and the mode is not `Prot32`. -/
theorem resetMeetsInvariant : Obligations.ResetMeetsInvariant := fun f =>
  { memory := reset_mem_wf
    vectorBits := fun i n _ => by
      have hzero : State.reset.v.get i = 0 := Vector.get_replicate _ _ i
      simp [hzero]
    highVectors := fun _ i _ => Vector.get_replicate _ _ i
    narrowPc := fun hmode => by cases hmode
    x87Enabled := (by decide : State.reset.xcr0.getLsbD 0 = true) }

end Sys2Proof.Proofs
end

section
/-! PROOFS. What every form leaves: the frame of each state operation, of a completed form and of a run (10_state R43,
R65, 20_memory R83), and `pc` past the instruction (R42). -/

namespace Sys2Proof.Machine

open Sys2Proof.Safety

/-! ## The frame of the state operations -/

theorem frame_refl (s : State) : Frame s s := by
  constructor
  case history => exact .none
  all_goals intros; rfl

theorem frame_trans {s t u : State} (h : Frame s t) (g : Frame t u) : Frame s u where
  general := g.general.trans h.general
  opmask := g.opmask.trans h.opmask
  x87Control := g.x87Control.trans h.x87Control
  x87LastInstr := g.x87LastInstr.trans h.x87LastInstr
  x87LastData := g.x87LastData.trans h.x87LastData
  mxcsr := g.mxcsr.trans h.mxcsr
  cr0 := g.cr0.trans h.cr0
  cr2 := g.cr2.trans h.cr2
  cr4 := g.cr4.trans h.cr4
  xcr0 := g.xcr0.trans h.xcr0
  eflags := g.eflags.trans h.eflags
  segs := g.segs.trans h.segs
  dr := g.dr.trans h.dr
  dr7 := g.dr7.trans h.dr7
  mode := g.mode.trans h.mode
  features := g.features.trans h.features
  pages := g.pages.trans h.pages
  regions := g.regions.trans h.regions
  history := lands_trans h.history g.history
  cells := g.cells.trans h.cells
  bytes a := (g.bytes a).trans (h.bytes a)

theorem frame_writeV (s : State) (i : Fin 32) (w : VReg) : Frame s (writeV s i w) := by
  constructor
  case history => exact .none
  all_goals intros; rfl

theorem frame_writeMm (s : State) (i : Fin 8) (w : Qword) : Frame s (writeMm s i w) := by
  constructor
  case history => exact .none
  all_goals intros; rfl

/-- Completing moves `pc` and lets writes of other processors become visible (20_memory R101). -/
theorem frame_retire (len : Nat) (s : State) : Frame s (retire len s) := by
  constructor
  case history => exact landing_lands s
  all_goals intros; rfl

/-- A vector register written and the form completed: the x87 registers and the other vector registers stay. -/
theorem vectorFrame_retire_writeV (len : Nat) (s : State) (d : Fin 32) (w : VReg) :
    VectorFrame d s (retire len (writeV s d w)) where
  frame := frame_trans (frame_writeV s d w) (frame_retire len _)
  x87 := rfl
  x87Status := rfl
  x87Tag := rfl
  others i hi := by rw [retire_v, writeV_get, if_neg hi]
  xinuse := ⟨_, rfl⟩

/-- Completing moves `pc` past the instruction, in the mode's width (10_state R42). -/
theorem pcAdvanced_retire {s s' : State} (len : Nat) (hmode : s'.mode = s.mode) (hpc : s'.pc = s.pc) :
    PcAdvanced len s (retire len s') := by
  constructor
  · intro hm
    rw [retire_pc, pcPlus_long64 s' len (hmode.trans hm), hpc]
  · intro hm
    rw [retire_pc, pcPlus_prot32 s' len (hmode.trans hm), hpc]

/-! ## The frame of an instruction -/

theorem Completed.frame {i : Instr} {s t : State} (h : Completed i s t) : Frame s t := by
  cases h with
  | mmx => exact frame_trans (frame_writeMm _ _ _) (frame_retire _ _)
  | sse => exact (vectorFrame_retire_writeV _ _ _ _).frame
  | vex => exact (vectorFrame_retire_writeV _ _ _ _).frame
  | evex => exact (vectorFrame_retire_writeV _ _ _ _).frame

theorem Completed.pcAdvanced {i : Instr} {s t : State} (h : Completed i s t) : PcAdvanced i.length s t := by
  cases h <;> exact pcAdvanced_retire _ rfl rfl

theorem exec_frame {i : Instr} {s t : State} (h : exec i s = .next t) : Frame s t :=
  (exec_next h).2.frame

/-- A fault leaves every register but `CR2` (60_exceptions R228, R231). -/
theorem stateAtFault_eq (f : Fault) (s : State) : ∃ a, stateAtFault f s = { s with cr2 := a } := by
  rw [stateAtFault]
  cases f.address with
  | none => exact ⟨s.cr2, rfl⟩
  | some a => exact ⟨a, rfl⟩

/-! ## Steps and runs -/

theorem step_frame {s t : State} (h : step s = .next t) : Frame s t := by
  obtain ⟨i, hexec⟩ := step_next h
  exact exec_frame hexec

/-- A run of one more step: its first step answers a state, and the run goes on from there. -/
theorem run_succ_next {n : Nat} {s t : State} (h : Sys2Proof.core.run (n + 1) s = .next t) :
    ∃ u, step s = .next u ∧ Sys2Proof.core.run n u = .next t := by
  cases hs : step s with
  | next u => exact ⟨u, rfl, by simpa [Host.Core.run, core, hs] using h⟩
  | fault f => simp [Host.Core.run, core, hs] at h
  | refused r => simp [Host.Core.run, core, hs] at h

/-- What a state shares with itself, what chains, and what every step keeps, every run keeps. -/
theorem run_keeps {P : State → State → Prop} (refl : ∀ s, P s s) (trans : ∀ {s t u}, P s t → P t u → P s u)
    (hstep : ∀ {s t}, step s = .next t → P s t) {n : Nat} {s t : State} (h : Sys2Proof.core.run n s = .next t) :
    P s t := by
  induction n generalizing s with
  | zero =>
    cases h
    exact refl _
  | succ n ih =>
    obtain ⟨u, hfirst, hrest⟩ := run_succ_next h
    exact trans (hstep hfirst) (ih hrest)

end Sys2Proof.Machine
end

section
/-! PROOFS. A ready form with a readable second source completes, and its destination holds the lane maxima (40 R171 to
R174, 41 R181 to R186). -/

namespace Sys2Proof.Machine

open Sys2Proof.Safety

/-! ## The checks of a ready form -/

theorem checkMmx_of_ready {i : Instr} {o : MmxOperands} {s : State} (hs : shapeOf i = .mmx o) (h : Ready i s) :
    checkMmx o.pfx s = none := by
  have hf := rowFeatures_of_mmx hs
  simp only [Ready, Decodable, hs, hf, hasAll_one] at h
  obtain ⟨hl, ⟨hsse, hlock, hem, hosfxsr⟩, hts, hpending⟩ := h
  exact (checkMmx_none_iff _ _).2 ⟨hl, hlock, hsse, hem, hosfxsr, hts, hpending⟩

theorem checkSse_of_ready {i : Instr} {o : SseOperands} {s : State} {flag : Feature} (hs : shapeOf i = .sse o)
    (hf : rowFeatures i = [flag]) (h : Ready i s) : checkSse flag o.pfx s = none := by
  simp only [Ready, Decodable, hs, hf, hasAll_one] at h
  obtain ⟨hl, ⟨hflag, hlock, hem, hosfxsr⟩, hts, -⟩ := h
  exact (checkSse_none_iff _ _ _).2 ⟨hl, hlock, hflag, hem, hosfxsr, hts⟩

theorem checkVex_of_ready {i : Instr} {o : VexOperands} {s : State} {flag : Feature} (hs : shapeOf i = .vex o)
    (hf : rowFeatures i = [flag]) (h : Ready i s) : checkVex flag o.pfx s = none := by
  simp only [Ready, Decodable, hs, hf, hasAll_one] at h
  obtain ⟨hl, ⟨hflag, hpfx, hosxsave, havx⟩, hts, -⟩ := h
  exact (checkVex_none_iff _ _ _).2 ⟨hl, hpfx, hosxsave, havx, hflag, hts⟩

/-! ## The results -/

/-- Lane `j` of `PMAXS` (R19). -/
theorem lane_pmaxs (N VL : Nat) (a b : BitVec VL) (j : Nat) (hj : j < VL / N) :
    lane N (pmaxs N VL a b) j = smax (lane N a j) (lane N b j) :=
  lane_packLanes N VL _ _ j hj (lanes_fit N VL)

/-- Sign and exponent of a written MMX register are all ones (10_state R62). -/
theorem writeMm_signExponent (s : State) (i : Fin 8) (w : Qword) :
    ((writeMm s i w).r.get i).extractLsb' 64 16 = 0xFFFF#16 := by
  rw [writeMm_get, if_pos rfl]
  exact BitVec.extractLsb'_append_eq_left

/-- `TOS` is 0 after an MMX write (10_state R62). -/
theorem x87Top_clearTop {s : State} {w : BitVec 16} (h : s.x87Status = clearTop w) : x87Top s = 0 := by
  apply BitVec.eq_of_getLsbD_eq
  intro n hn
  simp only [x87Top, h, BitVec.getLsbD_extractLsb', clearTop_getLsbD]
  simp [show 11 + n ≤ 13 by omega]

theorem mmxAfter_result (o : MmxOperands) (len : Nat) (b : Qword) (s : State) :
    MmxAfter o len b s (mmxResult 16 o len b s) where
  lanes j hj := by
    have hread : readMm (mmxResult 16 o len b s) o.d = pmaxs 16 64 (readMm s o.d) b := readMm_writeMm s o.d _
    rw [hread]
    exact lane_pmaxs 16 64 _ _ j hj
  signExponent := writeMm_signExponent s o.d _
  top := x87Top_clearTop rfl
  status n hn := by
    rw [mmxResult, retire_x87Status, writeMm_x87Status, clearTop_getLsbD, decide_eq_false (by omega), Bool.not_false,
      Bool.and_true]
  tag := rfl
  others i hi := by rw [mmxResult, retire_r, writeMm_get, if_neg hi]
  vectors := rfl
  xinuse := rfl
  pc := pcAdvanced_retire len rfl rfl
  frame := frame_trans (frame_writeMm s o.d _) (frame_retire len _)

theorem sseAfter_result (N : Nat) (o : SseOperands) (len : Nat) (b : BitVec 128) (s : State) :
    SseAfter N o len b s (sseResult N o len b s) where
  lanes j hj := by
    have hread : readV 128 (sseResult N o len b s) (vreg o.d) = pmaxs N 128 (readV 128 s (vreg o.d)) b :=
      readV_writeXmmKeep s (vreg o.d) _
    rw [hread]
    exact lane_pmaxs N 128 _ _ j hj
  kept n hn := writeXmmKeep_above s (vreg o.d) _ n hn
  pc := pcAdvanced_retire len rfl rfl
  frame := vectorFrame_retire_writeV len s (vreg o.d) _

theorem vexAfter_result (N VL : Nat) (hVL : VL ≤ 512) (o : VexOperands) (len : Nat) (b : BitVec VL) (s : State) :
    VexAfter N VL o len b s (vexResult N VL o len b s) where
  lanes j hj := by
    have hread : readV VL (vexResult N VL o len b s) (vreg o.d) = pmaxs N VL (readV VL s (vreg o.s1)) b :=
      readV_writeVZero s (vreg o.d) _ hVL
    rw [hread]
    exact lane_pmaxs N VL _ _ j hj
  zeroed n hn := writeVZero_above s (vreg o.d) _ n hn
  pc := pcAdvanced_retire len rfl rfl
  frame := vectorFrame_retire_writeV len s (vreg o.d) _

/-- An EVEX form writes `MASKED` of its maxima, and zeros above it whatever the mask (10_state R58). -/
theorem evexResult_writes (N VL : Nat) (hVL : VL ≤ 512) (o : EvexOperands) (len : Nat) (b : BitVec VL) (s : State) :
    readV VL (evexResult N VL o len b s) o.d =
        maskMerge N VL (pmaxs N VL (readV VL s o.s1) b) (readV VL s o.d) (readK s o.aaa) (isMasked o) o.z ∧
      ∀ n, VL ≤ n → ((evexResult N VL o len b s).v.get o.d).getLsbD n = false :=
  ⟨readV_writeVZero s o.d _ hVL, fun n hn => writeVZero_above s o.d _ n hn⟩

/-! ## Completion, for every row of a layout -/

theorem completesMmx_of_shape {mk : MmxOperands → Instr} (shape : ∀ o, shapeOf (mk o) = .mmx o) : CompletesMmx mk := by
  intro o s b hready hsource
  refine ⟨_, ?_, mmxAfter_result o (mk o).length b s⟩
  rw [exec_of_mmx (shape o), runMmx_next_iff]
  exact ⟨checkMmx_of_ready (shape o) hready, b, mmxSource_of_sourceIs o _ s b hsource, rfl⟩

theorem completesSse_of_shape {N : Nat} {mk : SseOperands → Instr} (shape : ∀ o, shapeOf (mk o) = .sse o)
    (element : ∀ o, elementBits (mk o) = N) : CompletesSse N mk := by
  intro o s b hready hsource
  obtain ⟨flag, hf, hrun⟩ := exec_of_sse (shape o)
  refine ⟨_, ?_, sseAfter_result N o (mk o).length b s⟩
  rw [hrun, element, runSse_next_iff]
  exact ⟨checkSse_of_ready (shape o) hf hready, b, sseSource_of_sourceIs o _ s b hsource, rfl⟩

theorem completesVex_of_shape {N VL : Nat} {mk : VexOperands → Instr} (shape : ∀ o, shapeOf (mk o) = .vex o)
    (element : ∀ o, elementBits (mk o) = N) (width : ∀ o, vectorLength (mk o) = VL) (bytes : 8 * (VL / 8) = VL) :
    CompletesVex N VL mk := by
  intro o s b hready hsource
  obtain ⟨flag, hf, hrun⟩ := exec_of_vex (shape o)
  refine ⟨_, ?_, vexAfter_result N VL (width o ▸ vectorLength_le (mk o)) o (mk o).length b s⟩
  rw [hrun, element, width, runVex_next_iff]
  exact ⟨checkVex_of_ready (shape o) hf hready, b, vexSource_of_sourceIs VL o _ s b bytes hsource, rfl⟩

end Sys2Proof.Machine
end

section
/-! PROOFS. What an instruction does not read of the state: MXCSR, the x87 control word and pointers, CR2, DR0 to DR3;
of EFLAGS all but `AC` and `TF`; in rows 1 to 4, XCR0 (10_state R43, R44, R47, R48). -/

namespace Sys2Proof.Machine

open Sys2Proof.Safety

/-- An instruction commutes with a change of the state that its check and its second source do not see, and that its
result carries along. -/
theorem exec_mapNext {f : State → State} {i : Instr} {s : State}
    (mmx : ∀ o len, shapeOf i = .mmx o → checkMmx o.pfx (f s) = checkMmx o.pfx s ∧
      mmxSource o len (f s) = mmxSource o len s ∧ ∀ N b, mmxResult N o len b (f s) = f (mmxResult N o len b s))
    (sse : ∀ o len, shapeOf i = .sse o → (∀ flag, checkSse flag o.pfx (f s) = checkSse flag o.pfx s) ∧
      sseSource o len (f s) = sseSource o len s ∧ ∀ N b, sseResult N o len b (f s) = f (sseResult N o len b s))
    (vex : ∀ o len, shapeOf i = .vex o → (∀ flag, checkVex flag o.pfx (f s) = checkVex flag o.pfx s) ∧
      ∀ VL, vexSource VL o len (f s) = vexSource VL o len s ∧
        ∀ N b, vexResult N VL o len b (f s) = f (vexResult N VL o len b s))
    (evex : ∀ broadcast o len, shapeOf i = .evex broadcast o →
      (∀ flags, checkEvex flags broadcast o (f s) = checkEvex flags broadcast o s) ∧
      ∀ N VL, evexSource N VL o len (f s) = evexSource N VL o len s ∧
        ∀ b, evexResult N VL o len b (f s) = f (evexResult N VL o len b s)) :
    exec i (f s) = mapNext f (exec i s) := by
  cases hs : shapeOf i with
  | mmx o =>
    obtain ⟨check, source, result⟩ := mmx o i.length hs
    rw [exec_of_mmx hs, exec_of_mmx hs]
    exact runMmx_mapNext check source (result 16)
  | sse o =>
    obtain ⟨flag, -, hrun⟩ := exec_of_sse hs
    obtain ⟨check, source, result⟩ := sse o i.length hs
    rw [hrun, hrun]
    exact runSse_mapNext (check flag) source (result _)
  | vex o =>
    obtain ⟨flag, -, hrun⟩ := exec_of_vex hs
    obtain ⟨check, operand⟩ := vex o i.length hs
    obtain ⟨source, result⟩ := operand (vectorLength i)
    rw [hrun, hrun]
    exact runVex_mapNext (check flag) source (result _)
  | evex broadcast o =>
    obtain ⟨check, operand⟩ := evex broadcast o i.length hs
    obtain ⟨source, result⟩ := operand (elementBits i) (vectorLength i)
    rw [exec_of_evex hs, exec_of_evex hs]
    exact runEvex_mapNext (check _) source result

/-! ## Registers that no form reads -/

/-- The state with the registers replaced that no form reads. -/
def withUnread (w : BitVec 32) (c : BitVec 16) (p q : X87Pointer) (a : Qword) (d : Vector Qword 4)
    (s : State) : State :=
  { s with mxcsr := w, x87Control := c, x87LastInstr := p, x87LastData := q, cr2 := a, dr := d }

/-- No check, no operand and no result mentions the registers that `withUnread` replaces. -/
theorem exec_withUnread (w : BitVec 32) (c : BitVec 16) (p q : X87Pointer) (a : Qword) (d : Vector Qword 4) (i : Instr)
    (s : State) : exec i (withUnread w c p q a d s) = mapNext (withUnread w c p q a d) (exec i s) :=
  exec_mapNext (fun _ _ _ => ⟨rfl, rfl, fun _ _ => rfl⟩) (fun _ _ _ => ⟨fun _ => rfl, rfl, fun _ _ => rfl⟩)
    (fun _ _ _ => ⟨fun _ => rfl, fun _ => ⟨rfl, fun _ _ => rfl⟩⟩)
    (fun _ _ _ _ => ⟨fun _ => rfl, fun _ _ => ⟨rfl, fun _ => rfl⟩⟩)

/-! ## XCR0 -/

/-- The state with XCR0 replaced. -/
def withXcr0 (x : Qword) (s : State) : State := { s with xcr0 := x }

/-- `Check_MMX` and `Check_SSE` do not mention XCR0 (10_state R47). -/
theorem exec_withXcr0_of_legacy {i : Instr} (h : (∃ o, shapeOf i = .mmx o) ∨ ∃ o, shapeOf i = .sse o) (x : Qword)
    (s : State) : exec i (withXcr0 x s) = mapNext (withXcr0 x) (exec i s) := by
  apply exec_mapNext
  case mmx => exact fun _ _ _ => ⟨rfl, rfl, fun _ _ => rfl⟩
  case sse => exact fun _ _ _ => ⟨fun _ => rfl, rfl, fun _ _ => rfl⟩
  case vex =>
    intro o len hs
    simp [hs] at h
  case evex =>
    intro broadcast o len hs
    simp [hs] at h

/-! ## EFLAGS -/

/-- The state with EFLAGS replaced. -/
def withEflags (e : BitVec 32) (s : State) : State := { s with eflags := e }

section Eflags

variable {e : BitVec 32} {s : State}

/-- The launch conditions read `TF` of EFLAGS. -/
theorem launchStop_withEflags (tf : e.getLsbD 8 = s.eflags.getLsbD 8) :
    launchStop (withEflags e s) = launchStop s := by
  have htf : eflagsTf (withEflags e s) = eflagsTf s := tf
  simp only [launchStop, htf]
  rfl

/-- A memory read asks of EFLAGS whether alignment is checked. -/
theorem memRead_withEflags (ac : e.getLsbD 18 = s.eflags.getLsbD 18) (pl : Place) (n : Nat) (rule : AlignRule)
    (masked : Bool) (active : Nat → Bool) :
    memRead (withEflags e s) pl n rule masked active = memRead s pl n rule masked active := by
  have hac : eflagsAc (withEflags e s) = eflagsAc s := ac
  have hcheck : alignCheckEnabled (withEflags e s) = alignCheckEnabled s := by
    simp only [alignCheckEnabled, hac]
    rfl
  have halign : alignmentStop (withEflags e s) pl n rule = alignmentStop s pl n rule := by
    cases rule <;> simp only [alignmentStop, hcheck] <;> rfl
  simp only [memRead, halign]
  rfl

theorem placeOf_withEflags (p : Prefixes) (n len : Nat) (m : MemOperand) :
    placeOf (withEflags e s) p n len m = placeOf s p n len m := rfl

theorem loadFull_withEflags (ac : e.getLsbD 18 = s.eflags.getLsbD 18) (VL : Nat) (rule : AlignRule) (p : Prefixes)
    (len : Nat) (m : MemOperand) : loadFull VL rule p len m (withEflags e s) = loadFull VL rule p len m s := by
  simp only [loadFull, placeOf_withEflags, memRead_withEflags ac]

theorem mmxSource_withEflags (ac : e.getLsbD 18 = s.eflags.getLsbD 18) (o : MmxOperands) (len : Nat) :
    mmxSource o len (withEflags e s) = mmxSource o len s := by
  cases hs : o.src with
  | reg r => simp only [mmxSource, hs]; rfl
  | mem m => simp only [mmxSource, hs, loadFull_withEflags ac]

theorem sseSource_withEflags (ac : e.getLsbD 18 = s.eflags.getLsbD 18) (o : SseOperands) (len : Nat) :
    sseSource o len (withEflags e s) = sseSource o len s := by
  cases hs : o.src with
  | reg r => simp only [sseSource, hs]; rfl
  | mem m => simp only [sseSource, hs, loadFull_withEflags ac]

theorem vexSource_withEflags (ac : e.getLsbD 18 = s.eflags.getLsbD 18) (VL : Nat) (o : VexOperands) (len : Nat) :
    vexSource VL o len (withEflags e s) = vexSource VL o len s := by
  cases hs : o.src with
  | reg r => simp only [vexSource, hs]; rfl
  | mem m => simp only [vexSource, hs, loadFull_withEflags ac]

theorem evexSource_withEflags (ac : e.getLsbD 18 = s.eflags.getLsbD 18) (N VL : Nat) (o : EvexOperands) (len : Nat) :
    evexSource N VL o len (withEflags e s) = evexSource N VL o len s := by
  cases hs : o.src with
  | reg r => simp only [evexSource, hs]; rfl
  | mem m =>
    simp only [evexSource, hs, placeOf_withEflags, memRead_withEflags ac]
    rfl

/-- An instruction commutes with a change of EFLAGS that keeps `AC` and `TF`. -/
theorem exec_withEflags (ac : e.getLsbD 18 = s.eflags.getLsbD 18) (tf : e.getLsbD 8 = s.eflags.getLsbD 8) (i : Instr) :
    exec i (withEflags e s) = mapNext (withEflags e) (exec i s) := by
  have launch := launchStop_withEflags tf
  apply exec_mapNext
  case mmx =>
    refine fun o len _ => ⟨?_, mmxSource_withEflags ac o len, fun _ _ => rfl⟩
    simp only [checkMmx, launch]
    rfl
  case sse =>
    refine fun o len _ => ⟨fun flag => ?_, sseSource_withEflags ac o len, fun _ _ => rfl⟩
    simp only [checkSse, launch]
    rfl
  case vex =>
    refine fun o len _ => ⟨fun flag => ?_, fun VL => ⟨vexSource_withEflags ac VL o len, fun _ _ => rfl⟩⟩
    simp only [checkVex, launch]
    rfl
  case evex =>
    refine fun broadcast o len _ => ⟨fun flags => ?_, fun N VL => ⟨evexSource_withEflags ac N VL o len, fun _ => rfl⟩⟩
    simp only [checkEvex, launch]
    rfl

end Eflags

end Sys2Proof.Machine
end

section
/-! PROOFS. The linear address as integer arithmetic (20_memory R96, R99), and how a step and a reset unfold. -/

namespace Sys2Proof.Machine

open Sys2Proof.Safety

theorem low32_toNat (a : Qword) : (low32 a).toNat = a.toNat % 2 ^ 32 := by
  simp only [low32, BitVec.toNat_setWidth]
  omega

/-- Cutting an address to its size is a remainder. -/
theorem cutAddress_toNat (narrow : Bool) (a : Qword) :
    (cutAddress narrow a).toNat = a.toNat % (if narrow then 2 ^ 32 else 2 ^ 64) := by
  cases narrow with
  | true => exact low32_toNat a
  | false => exact (Nat.mod_eq_of_lt a.isLt).symm

/-- An address size divides 64 bits, so wrapping at 64 bits first changes nothing. -/
theorem cutAddress_add_toNat (narrow : Bool) (a b : Qword) :
    (cutAddress narrow (a + b)).toNat = (a.toNat + b.toNat) % (if narrow then 2 ^ 32 else 2 ^ 64) := by
  rw [cutAddress_toNat, BitVec.toNat_add]
  apply Nat.mod_mod_of_dvd
  cases narrow <;> decide

theorem byteOffset_toNat (pl : Place) (k : Nat) :
    (byteOffset pl k).toNat = (pl.ea.toNat + k) % (if pl.narrow then 2 ^ 32 else 2 ^ 64) := by
  rw [byteOffset, cutAddress_add_toNat, BitVec.toNat_ofNat, Nat.add_mod, Nat.mod_mod_of_dvd, ← Nat.add_mod]
  cases pl.narrow <;> decide

theorem segmentBase_prot32 {s : State} (h : s.mode = .prot32) (g : SegName) :
    segmentBase s g = (segReg s g).base := by
  simp [segmentBase, h]

/-! ## The step -/

theorem undecodable_eq (e : DecodeError) :
    undecodable e =
      if e = .evexReservedBits ∨ e = .evexReservedLength then .fault .invalidOpcode else .refused (.undecodable e) := by
  cases e <;> rfl

/-- A step from a state that is not admitted refuses. -/
theorem step_refused {s : State} {r : Refusal} (h : launchStop s = some r) : step s = .refused r := by
  rw [step, h]

theorem step_of_decode_ok {s : State} {i : Instr} {rest : List Byte} (hl : Launchable s)
    (h : decode s.mode (fetchBytes s) = .ok (i, rest)) : step s = exec i s := by
  simp only [step, (launchStop_none_iff s).2 hl, h]

theorem step_of_decode_error {s : State} {e : DecodeError} (hl : Launchable s)
    (h : decode s.mode (fetchBytes s) = .error e) : step s = undecodable e := by
  simp only [step, (launchStop_none_iff s).2 hl, h]

theorem launchStop_realAddress {s : State} (h : s.mode = .realAddress) : launchStop s = some .modeNotAdmitted := by
  simp [launchStop, h]

/-! ## INIT -/

/-- INIT keeps `CD` and `NW`, sets bit 4 and clears the rest of CR0 (10_state R70). -/
theorem init_cr0_getLsbD (s : State) (n : Nat) (hn : n < 64) :
    s.init.cr0.getLsbD n = if n = 29 ∨ n = 30 then s.cr0.getLsbD n else decide (n = 4) := by
  have kept : ∀ n < 64, (0x60000000 : Qword).getLsbD n = decide (n = 29 ∨ n = 30) := by decide
  have bit4 : ∀ n < 64, (0x10 : Qword).getLsbD n = decide (n = 4) := by decide
  have hinit : s.init.cr0 = (s.cr0 &&& 0x60000000) ||| 0x10 := rfl
  rw [hinit, BitVec.getLsbD_or, BitVec.getLsbD_and, kept n hn, bit4 n hn]
  split
  next h => simp [h]; omega
  next h => simp [h]

/-- The first eight general registers have their reset values after INIT (10_state R70). -/
theorem readX_init (s : State) {i : Fin 16} (h : i.val < 8) : readX s.init i = readX State.reset i := by
  have hinit : s.init.x = registersAfterInit s.draws := rfl
  rw [readX, hinit, registersAfterInit, Vector.get_ofFn, if_pos h]
  rfl

theorem readX_reset (i : Fin 16) : readX State.reset i = 0 := Vector.get_replicate _ _ i

end Sys2Proof.Machine
end

section
/-! PROOFS. What the decoder reads: the parts of 30_encoding R147 in the order of the decoder, each with the bytes it takes
and the shape it gives. -/

namespace Sys2Proof

/-! ## Bytes taken -/

/-- `n` bytes were taken from the first list and the second is left. -/
def Takes (bytes : List Byte) (n : Nat) (rest : List Byte) : Prop :=
  ∃ taken, bytes = taken ++ rest ∧ taken.length = n

theorem takes_zero (bytes : List Byte) : Takes bytes 0 bytes := ⟨[], rfl, rfl⟩

theorem Takes.cons {bytes rest : List Byte} {n : Nat} (h : Takes bytes n rest) (b : Byte) :
    Takes (b :: bytes) (n + 1) rest := by
  obtain ⟨taken, rfl, rfl⟩ := h
  exact ⟨b :: taken, rfl, rfl⟩

theorem Takes.trans {a b c : List Byte} {m n : Nat} (h : Takes a m b) (g : Takes b n c) : Takes a (m + n) c := by
  obtain ⟨x, rfl, rfl⟩ := h
  obtain ⟨y, rfl, rfl⟩ := g
  exact ⟨x ++ y, (List.append_assoc x y c).symm, List.length_append⟩

/-! ## Register numbers -/

theorem reg4_val (ext : Bool) (low : BitVec 3) : (reg4 ext low).val = 8 * ext.toNat + low.toNat := by
  have hlow := low.isLt
  cases ext <;> simp [reg4] <;> omega

theorem reg5_val (e4 e3 : Bool) (low : BitVec 3) : (reg5 e4 e3 low).val = 16 * e4.toNat + 8 * e3.toNat + low.toNat := by
  have hlow := low.isLt
  cases e4 <;> cases e3 <;> simp [reg5] <;> omega

/-- Without an extension bit a register number is below 8. -/
theorem reg4_lt (low : BitVec 3) : (reg4 false low).val < 8 := by
  have hlow := low.isLt
  simpa [reg4_val] using hlow

theorem reg5_lt (low : BitVec 3) : (reg5 false false low).val < 8 := by
  have hlow := low.isLt
  simpa [reg5_val] using hlow

/-- The low bits of a register number are those read. -/
theorem reg4_mod (ext : Bool) (low : BitVec 3) : (reg4 ext low).val % 8 = low.toNat := by
  have hlow := low.isLt
  rw [reg4_val]
  omega

/-! ## Displacement, memory operand and ModRM -/

theorem take32_ok {bytes rest : List Byte} {d : BitVec 32} (h : take32 bytes = .ok (d, rest)) : Takes bytes 4 rest := by
  match bytes, h with
  | b0 :: b1 :: b2 :: b3 :: _, h =>
    cases h
    exact ⟨[b0, b1, b2, b3], rfl, rfl⟩

/-- `mod = 00b` alone has no displacement (R134). -/
theorem takeDisp_ok {mod : BitVec 2} {bytes rest : List Byte} {d : Disp} (h : takeDisp mod bytes = .ok (d, rest)) :
    Takes bytes d.length rest ∧ (mod ≠ 0 → d ≠ .none) := by
  simp only [takeDisp] at h
  split at h
  next h0 =>
    cases h
    exact ⟨takes_zero _, fun hne => absurd h0 hne⟩
  next =>
    split at h
    next =>
      split at h
      next b _ =>
        cases h
        exact ⟨(takes_zero _).cons b, fun _ => nofun⟩
      next => cases h
    next =>
      split at h
      next h32 =>
        cases h
        exact ⟨take32_ok h32, fun _ => nofun⟩
      next => cases h

/-- A base register read with `mod = 00b` has other low bits than `101b`, which are another shape (R134, R135). -/
theorem baseNeedsDisp_of_read {mod : BitVec 2} {bx : Bool} {low : BitVec 3} {d : Disp} (h : ¬(mod = 0 ∧ low = 5))
    (hd : mod ≠ 0 → d ≠ .none) : baseNeedsDisp (reg4 bx low) d = true := by
  cases d with
  | none =>
    have hmod : mod = 0 := by_contra fun hne => hd hne rfl
    have hlow : low.toNat ≠ 5 := fun e => h ⟨hmod, BitVec.eq_of_toNat_eq e⟩
    simpa [baseNeedsDisp, reg4_mod] using hlow
  | disp8 b => rfl
  | disp32 d => rfl

theorem sibIndex_ne (xx : Bool) (idx : BitVec 3) : sibIndex xx idx ≠ some 4 := by
  simp only [sibIndex]
  split
  · nofun
  · simpa using ‹_›

theorem lowIndex_sibIndex (idx : BitVec 3) : lowIndex (sibIndex false idx) = true := by
  simp only [sibIndex]
  split
  · rfl
  · simpa [lowIndex] using reg4_lt idx

/-- A memory operand read takes its bytes and has one of R134's shapes; without extension bits its registers are below 8. -/
theorem takeMem_ok {mode : Mode} (hmode : mode = .long64 ∨ mode = .prot32) {bx xx : Bool} {mod : BitVec 2}
    {rm : BitVec 3} {bytes rest : List Byte} {m : MemOperand} (h : takeMem mode bx xx mod rm bytes = .ok (m, rest)) :
    Takes bytes m.length rest ∧ m.shaped mode = true ∧ (bx = false → xx = false → m.low = true) := by
  simp only [takeMem] at h
  split at h
  next =>
    split at h
    next => cases h
    next sib rest' =>
      split at h
      next =>
        split at h
        next h32 =>
          cases h
          refine ⟨(take32_ok h32).cons sib, by simpa [MemOperand.shaped] using sibIndex_ne _ _, ?_⟩
          rintro - rfl
          exact lowIndex_sibIndex _
        next => cases h
      next hbase =>
        split at h
        next hdisp =>
          cases h
          obtain ⟨htakes, hd⟩ := takeDisp_ok hdisp
          refine ⟨by simpa [MemOperand.length, Nat.add_comm] using htakes.cons sib, ?_, ?_⟩
          · simpa [MemOperand.shaped, baseNeedsDisp_of_read hbase hd] using sibIndex_ne _ _
          · rintro rfl rfl
            simp [MemOperand.low, lowIndex_sibIndex, reg4_lt]
        next => cases h
  next hrm =>
    split at h
    next =>
      split at h
      next h32 =>
        cases h
        obtain rfl | rfl := hmode <;> exact ⟨take32_ok h32, rfl, fun _ _ => rfl⟩
      next => cases h
    next hbase =>
      split at h
      next hdisp =>
        cases h
        obtain ⟨htakes, hd⟩ := takeDisp_ok hdisp
        have hlow : rm.toNat ≠ 4 := fun e => hrm (BitVec.eq_of_toNat_eq e)
        refine ⟨htakes, ?_, ?_⟩
        · simpa [MemOperand.shaped, baseNeedsDisp_of_read hbase hd, reg4_mod] using hlow
        · rintro rfl -
          simp [MemOperand.low, reg4_lt]
      next => cases h

/-- ModRM and what follows: a well-formed second source, where the layout's extension bits are 0 unless `ext` says that it
has them. -/
theorem takeModRM_ok {n : Nat} {mode : Mode} (hmode : mode = .long64 ∨ mode = .prot32) {bx xx ext : Bool}
    {regOf : BitVec 3 → Fin n} (hext : ext = false → bx = false ∧ xx = false ∧ ∀ rm, (regOf rm).val < 8)
    {bytes rest : List Byte} {reg : BitVec 3} {src : Source n}
    (h : takeModRM mode bx xx regOf bytes = .ok (reg, src, rest)) :
    Takes bytes (src.length + 1) rest ∧ src.wf mode ext = true := by
  match bytes, h with
  | m :: _, h =>
    simp only [takeModRM] at h
    split at h
    next =>
      cases h
      refine ⟨(takes_zero _).cons m, ?_⟩
      cases ext with
      | true => rfl
      | false => simpa [Source.wf, Source.low] using (hext rfl).2.2 _
    next =>
      split at h
      next hmem =>
        cases h
        obtain ⟨htakes, hshaped, hlow⟩ := takeMem_ok hmode hmem
        refine ⟨htakes.cons m, ?_⟩
        cases ext with
        | true => simpa [Source.wf] using hshaped
        | false =>
          obtain ⟨hbx, hxx, -⟩ := hext rfl
          simp [Source.wf, Source.low, hshaped, hlow hbx hxx]
      next => cases h

/-! ## Prefixes and REX -/

theorem once_ok {seen : Bool} {p p' : Prefixes} (h : once seen p = .ok p') : seen = false ∧ p' = p := by
  cases seen with
  | true => cases h
  | false =>
    cases h
    exact ⟨rfl, rfl⟩

/-- A legacy byte taken makes the prefixes one byte longer (R147, step 1). -/
theorem addPrefix_ok {p p' : Prefixes} {b : Byte} (h : addPrefix p b = some (.ok p')) :
    p'.length = p.length + 1 ∧ p'.rex = p.rex := by
  have flag : ∀ {seen : Bool} {q : Prefixes}, some (once seen q) = some (.ok p') →
      (seen = false → q.length = p.length + 1 ∧ q.rex = p.rex) → p'.length = p.length + 1 ∧ p'.rex = p.rex := by
    intro seen q hq hlen
    obtain ⟨hseen, rfl⟩ := once_ok (Option.some.inj hq)
    exact hlen hseen
  simp only [addPrefix] at h
  iterate 5
    split at h
    · exact flag h fun hseen => by simp [Prefixes.length, hseen]; omega
  split at h
  next =>
    split at h
    next => cases h
    next hseg =>
      cases h
      simp [Prefixes.length, hseg]
      omega
  next => cases h

theorem scanPrefixes_ok {p q : Prefixes} {bytes rest : List Byte} (h : scanPrefixes p bytes = .ok (q, rest)) :
    q.rex = p.rex ∧ ∃ n, Takes bytes n rest ∧ q.length = p.length + n := by
  induction bytes generalizing p with
  | nil => cases h
  | cons b bytes ih =>
    simp only [scanPrefixes] at h
    split at h
    next =>
      cases h
      exact ⟨rfl, 0, takes_zero _, rfl⟩
    next => cases h
    next p' hadd =>
      obtain ⟨hlen, hrex⟩ := addPrefix_ok hadd
      obtain ⟨hrex', n, htakes, hlen'⟩ := ih h
      exact ⟨hrex'.trans hrex, n + 1, htakes.cons b, by omega⟩

/-- Prefixes that the decoder does not refuse are well-formed, REX being `Long64`'s alone (R113, R137, R138). -/
theorem prefixes_wf_of_policy {mode : Mode} (hmode : mode = .long64 ∨ mode = .prot32) {p : Prefixes}
    {rex : Option Byte} (h : prefixPolicy mode p = none) (hrex : rex.isSome = true → mode = .long64) :
    ({ p with rex := rex.isSome } : Prefixes).wf mode = true := by
  simp only [prefixPolicy] at h
  split at h
  next => cases h
  next hseg =>
    split at h
    next => cases h
    next haddr =>
      obtain rfl | rfl := hmode
      · match hs : p.seg, hseg with
        | none, _ => simp [Prefixes.wf]
        | some .fs, _ => simp [Prefixes.wf]
        | some .gs, _ => simp [Prefixes.wf]
      · have hnone : rex.isSome = false := by
          by_contra hne
          cases hrex (Bool.eq_true_of_not_eq_false hne)
        simpa [Prefixes.wf, hnone] using haddr

theorem splitRex_ok {mode : Mode} {bytes rest : List Byte} {rex : Option Byte}
    (h : splitRex mode bytes = .ok (rex, rest)) :
    Takes bytes rex.isSome.toNat rest ∧ (rex.isSome = true → mode = .long64) := by
  match bytes, h with
  | b :: bytes, h =>
    simp only [splitRex] at h
    split at h
    next hrex =>
      split at h
      next => cases h
      next =>
        split at h
        next =>
          cases h
          exact ⟨(takes_zero _).cons b, fun _ => hrex.1⟩
        next => split at h <;> cases h
    next =>
      cases h
      exact ⟨takes_zero _, nofun⟩

/-! ## Layouts -/

/-- What a layout reads, behind prefixes `p` and `o` opcode bytes: a shaped instruction whose length counts the prefixes,
the opcode bytes and the bytes taken (R147, step 5). -/
structure Reads (mode : Mode) (p : Prefixes) (o : Nat) (bytes rest : List Byte) (i : Instr) : Prop where
  shaped : i.shaped mode = true
  takes : ∃ n, Takes bytes n rest ∧ i.length = p.length + o + n

/-- One more byte read before the operands is one more opcode byte. -/
theorem Reads.cons {mode : Mode} {p : Prefixes} {o : Nat} {bytes rest : List Byte} {i : Instr}
    (h : Reads mode p (o + 1) bytes rest i) (b : Byte) : Reads mode p o (b :: bytes) rest i := by
  obtain ⟨hshaped, n, htakes, hlen⟩ := h
  exact ⟨hshaped, n + 1, htakes.cons b, by omega⟩

/-- A form whose second source was read. -/
theorem reads_of_source {n : Nat} {mode : Mode} {p : Prefixes} {o : Nat} {bytes rest : List Byte} {i : Instr}
    {src : Source n} (shaped : i.shaped mode = true) (len : i.length = formLength o p src)
    (takes : Takes bytes (src.length + 1) rest) : Reads mode p o bytes rest i :=
  ⟨shaped, _, takes, by rw [len, formLength]; omega⟩

/-! ### The rows -/

/-- A row of the legacy layout on vector registers: its well-formedness and length. -/
def LegacyRow (o : Nat) (ctor : SseOperands → Instr) : Prop :=
  ∀ (mode : Mode) (ops : SseOperands), (ctor ops).shaped mode = ops.wf mode ∧
    (ctor ops).length = formLength o ops.pfx ops.src

/-- The rows of the legacy layout, each behind its opcode bytes and with or without `66` (R112, R116). -/
theorem legacyRow_some {three opsize : Bool} {op : Byte} {row : Option (SseOperands → Instr)}
    (h : legacyRow three opsize op = some row) :
    (row = none → three = false ∧ opsize = false) ∧
      ∀ ctor, row = some ctor → opsize = true ∧ LegacyRow (2 + three.toNat) ctor := by
  simp only [legacyRow] at h
  split_ifs at h with hthree hop hop _ hopsize <;> cases h
  · exact ⟨nofun, by rintro _ ⟨⟩; exact ⟨hop.2, hthree ▸ fun _ _ => ⟨rfl, rfl⟩⟩⟩
  · exact ⟨nofun, by rintro _ ⟨⟩; exact ⟨hop.2, hthree ▸ fun _ _ => ⟨rfl, rfl⟩⟩⟩
  · exact ⟨nofun, by rintro _ ⟨⟩; exact ⟨hopsize, Bool.eq_false_of_not_eq_true hthree ▸ fun _ _ => ⟨rfl, rfl⟩⟩⟩
  · exact ⟨fun _ => ⟨Bool.eq_false_of_not_eq_true hthree, Bool.eq_false_of_not_eq_true hopsize⟩, nofun⟩

/-- A row of the VEX layout: its well-formedness and length; `short` is the two-byte encoding. -/
def VexRow (short : Bool) (o : Nat) (ctor : VexOperands → Instr) : Prop :=
  ∀ (mode : Mode) (ops : VexOperands), (ctor ops).shaped mode = ops.wf mode short ∧
    (ctor ops).length = formLength o ops.pfx ops.src

theorem vexRow_some {map : BitVec 5} {l : Bool} {op : Byte} {ctor : VexOperands → Instr}
    (h : vexRow map l op = some ctor) : VexRow false 4 ctor := by
  simp only [vexRow] at h
  iterate 3
    split at h
    · cases l <;> cases h <;> exact fun _ _ => ⟨rfl, rfl⟩
  cases h

/-- A row of the EVEX layout: its well-formedness and length. -/
def EvexRow (ctor : EvexOperands → Instr) : Prop :=
  ∀ (mode : Mode) (ops : EvexOperands), (ctor ops).shaped mode = ops.wf mode ∧
    (ctor ops).length = formLength 5 ops.pfx ops.src

/-- Each opcode has three vector lengths. -/
theorem evexRow_of_length {a b c : EvexOperands → Instr} (ha : EvexRow a) (hb : EvexRow b) (hc : EvexRow c)
    {ll : BitVec 2} {ctor : EvexOperands → Instr}
    (h : (if ll = 0 then some a else if ll = 1 then some b else if ll = 2 then some c else none) = some ctor) :
    EvexRow ctor := by
  split_ifs at h <;> cases h
  exacts [ha, hb, hc]

theorem evexRow_some {map : BitVec 2} {w : Bool} {ll : BitVec 2} {op : Byte} {ctor : EvexOperands → Instr}
    (h : evexRow map w ll op = some ctor) : EvexRow ctor := by
  simp only [evexRow] at h
  iterate 4
    split at h
    · exact evexRow_of_length (fun _ _ => ⟨rfl, rfl⟩) (fun _ _ => ⟨rfl, rfl⟩) (fun _ _ => ⟨rfl, rfl⟩) h
  cases h

/-! ### Bits of REX, VEX and EVEX -/

/-- Without REX its bits are 0. -/
theorem rexBit_of_isSome {p : Prefixes} {rex : Option Byte} (h : p.rex = rex.isSome) (hno : p.rex = false) (n : Nat) :
    rexBit rex n = false := by
  cases rex with
  | none => rfl
  | some b => simp [h] at hno

/-- A payload byte whose top two bits are `11b`, as `Prot32` has it (R118, R119, R125). -/
theorem topBits_of_extract {b : Byte} (h : b.extractLsb' 6 2 = 3) : b.getLsbD 7 = true ∧ b.getLsbD 6 = true := by
  have h0 := congrArg (fun v => v.getLsbD 0) h
  have h1 := congrArg (fun v => v.getLsbD 1) h
  simp at h0 h1
  exact ⟨h1, h0⟩

/-- With the top bit of the stored `vvvv` set the register number is below 8 (R120, R121). -/
theorem vvvv_lt : ∀ vn : BitVec 4, vn.getLsbD 3 = true → (~~~vn).toFin.val < 8 := by decide

/-- A reserved pattern is no instruction (R148, R151). -/
theorem reservedEvex_ne_ok {mode : Mode} {p : Prefixes} {e : DecodeError} {bytes rest : List Byte} {i : Instr} :
    reservedEvex mode p e bytes ≠ .ok (i, rest) := by
  simp only [reservedEvex]
  split <;> nofun

theorem reservedOr_ne_ok {c : Prop} [Decidable c] {mode : Mode} {p : Prefixes} {e e' : DecodeError}
    {bytes rest : List Byte} {i : Instr} :
    (if c then reservedEvex mode p e bytes else .error e') ≠ .ok (i, rest) := by
  split
  · exact reservedEvex_ne_ok
  · nofun

/-! ### The layouts -/

section Layouts

variable {mode : Mode} {p : Prefixes} {bytes rest : List Byte} {i : Instr}
  (hmode : mode = .long64 ∨ mode = .prot32) (hwf : p.wf mode = true)

include hmode hwf

theorem takeMmx_ok {rex : Option Byte} (hrex : p.rex = rex.isSome) (hlegacy : p.legacy false = true)
    (h : takeMmx mode p rex bytes = .ok (i, rest)) : Reads mode p 2 bytes rest i := by
  simp only [takeMmx] at h
  split at h
  next src _ hsrc =>
    cases h
    have hext : p.rex = false → rexBit rex 0 = false ∧ rexBit rex 1 = false ∧ ∀ rm : BitVec 3, rm.toFin.val < 8 :=
      fun hno => ⟨rexBit_of_isSome hrex hno 0, rexBit_of_isSome hrex hno 1, fun rm => rm.isLt⟩
    obtain ⟨htakes, hshape⟩ := takeModRM_ok hmode hext hsrc
    refine reads_of_source ?_ rfl htakes
    cases src with
    | reg r => simp [Instr.shaped, MmxOperands.wf, hwf, hlegacy]
    | mem m => simp [Instr.shaped, MmxOperands.wf, hwf, hlegacy, hshape]
  next => cases h

theorem takeSse_ok {rex : Option Byte} (hrex : p.rex = rex.isSome) (hlegacy : p.legacy true = true) {o : Nat}
    {ctor : SseOperands → Instr} (hrow : LegacyRow o ctor) (h : takeSse mode p rex ctor bytes = .ok (i, rest)) :
    Reads mode p o bytes rest i := by
  simp only [takeSse] at h
  split at h
  next reg src _ hsrc =>
    cases h
    have hbit := fun hno => rexBit_of_isSome hrex hno
    have hext : p.rex = false →
        rexBit rex 0 = false ∧ rexBit rex 1 = false ∧ ∀ rm, (reg4 (rexBit rex 0) rm).val < 8 :=
      fun hno => ⟨hbit hno 0, hbit hno 1, fun rm => by rw [hbit hno 0]; exact reg4_lt rm⟩
    have hd : p.rex = true ∨ (reg4 (rexBit rex 2) reg).val < 8 := by
      cases hr : p.rex with
      | true => exact .inl rfl
      | false => exact .inr (by rw [hbit hr 2]; exact reg4_lt reg)
    obtain ⟨htakes, hshape⟩ := takeModRM_ok hmode hext hsrc
    obtain ⟨hshaped, hlen⟩ := hrow mode { pfx := p, d := reg4 (rexBit rex 2) reg, src := src }
    refine reads_of_source ?_ hlen htakes
    rw [hshaped]
    simp [SseOperands.wf, hwf, hlegacy, hshape, hd]
  next => cases h

theorem takeLegacyRow_ok {rex : Option Byte} (hrex : p.rex = rex.isSome) {three : Bool} {op : Byte}
    (h : takeLegacyRow mode p rex three op bytes = .ok (i, rest)) :
    Reads mode p (2 + three.toNat) bytes rest i := by
  simp only [takeLegacyRow] at h
  split at h
  next => cases h
  next row hrow =>
    obtain ⟨hmmx, hsse⟩ := legacyRow_some hrow
    split at h
    next => cases h
    next hrep =>
      have hlegacy : p.legacy p.opsize = true := by simpa [Prefixes.legacy] using hrep
      split at h
      next =>
        obtain ⟨rfl, hopsize⟩ := hmmx rfl
        exact takeMmx_ok hmode hwf hrex (hopsize ▸ hlegacy) h
      next ctor =>
        obtain ⟨hopsize, hctor⟩ := hsse ctor rfl
        exact takeSse_ok hmode hwf hrex (hopsize ▸ hlegacy) hctor h

theorem takeLegacy_ok {rex : Option Byte} (hrex : p.rex = rex.isSome)
    (h : takeLegacy mode p rex bytes = .ok (i, rest)) : Reads mode p 1 bytes rest i := by
  match bytes, h with
  | b :: _, h =>
    simp only [takeLegacy] at h
    split at h
    next =>
      split at h
      next => cases h
      next op _ => exact ((takeLegacyRow_ok hmode hwf hrex h).cons op).cons b
    next => exact (takeLegacyRow_ok hmode hwf hrex h).cons b

/-- The operands of a VEX form: in `Prot32` no extension bit is set; the two-byte encoding has neither `X` nor `B`. -/
theorem takeVex_ok {r x b short : Bool} {vn : BitVec 4} {o : Nat} {ctor : VexOperands → Instr}
    (hrow : VexRow short o ctor) (hprot : mode = .prot32 → r = false ∧ vn.getLsbD 3 = true)
    (hext : mode = .prot32 ∨ short = true → x = false ∧ b = false)
    (h : takeVex mode p r x b vn ctor bytes = .ok (i, rest)) : Reads mode p o bytes rest i := by
  simp only [takeVex] at h
  split at h
  next reg src _ hsrc =>
    cases h
    have hnarrow : (mode == .long64 && !short) = false → b = false ∧ x = false ∧ ∀ rm, (reg4 b rm).val < 8 := by
      intro hno
      have hwhy : mode = .prot32 ∨ short = true := by
        obtain rfl | rfl := hmode
        · exact .inr (by simpa using hno)
        · exact .inl rfl
      obtain ⟨rfl, rfl⟩ := hext hwhy
      exact ⟨rfl, rfl, reg4_lt⟩
    obtain ⟨htakes, hshape⟩ := takeModRM_ok hmode hnarrow hsrc
    obtain ⟨hshaped, hlen⟩ := hrow mode { pfx := p, d := reg4 r reg, s1 := (~~~vn).toFin, src := src }
    refine reads_of_source ?_ hlen htakes
    have hregs : mode = .long64 ∨ (reg4 r reg).val < 8 ∧ (~~~vn).toFin.val < 8 := by
      refine hmode.imp id fun hm => ?_
      obtain ⟨rfl, hvn⟩ := hprot hm
      exact ⟨reg4_lt reg, vvvv_lt vn hvn⟩
    rw [hshaped, VexOperands.wf, hwf, hshape]
    simpa using hregs
  next => cases h

theorem takeVex3_ok (h : takeVex3 mode p bytes = .ok (i, rest)) : Reads mode p 1 bytes rest i := by
  match bytes, h with
  | b1 :: b2 :: op :: _, h =>
    simp only [takeVex3] at h
    split at h
    next => cases h
    next htop =>
      split at h
      next => cases h
      next ctor hctor =>
        split at h
        next => cases h
        next hbits =>
          have hrow : VexRow false 4 ctor := by
            split at hctor
            next => exact vexRow_some hctor
            next => cases hctor
          have hprot : mode = .prot32 → (b1.getLsbD 7 = true ∧ b1.getLsbD 6 = true) ∧
              b1.getLsbD 5 = true ∧ b2.getLsbD 6 = true := by
            intro hm
            refine ⟨topBits_of_extract (by_contra fun hne => htop ⟨hm, hne⟩), ?_⟩
            simpa [hm] using hbits
          refine (((takeVex_ok hmode hwf hrow (fun hm => ?_) (fun hm => ?_) h).cons op).cons b2).cons b1
          · obtain ⟨⟨h7, -⟩, -, h6⟩ := hprot hm
            simp [h7, h6]
          · obtain ⟨⟨-, h6⟩, h5, -⟩ := hprot (hm.resolve_right nofun)
            simp [h6, h5]

theorem takeVex2_ok (h : takeVex2 mode p bytes = .ok (i, rest)) : Reads mode p 1 bytes rest i := by
  match bytes, h with
  | b1 :: op :: _, h =>
    simp only [takeVex2] at h
    split at h
    next => cases h
    next htop =>
      split at h
      next =>
        have hrow : VexRow true 3 (if b1.getLsbD 2 then .vpmaxswVex256Short else .vpmaxswVex128Short) := by
          split <;> exact fun _ _ => ⟨rfl, rfl⟩
        refine ((takeVex_ok hmode hwf hrow (fun hm => ?_) (fun _ => ⟨rfl, rfl⟩) h).cons op).cons b1
        obtain ⟨h7, h6⟩ := topBits_of_extract (by_contra fun hne => htop ⟨hm, hne⟩)
        simp [h7, h6]
      next => cases h

theorem takeEvexOperands_ok {p0 p1 p2 : Byte} {ctor : EvexOperands → Instr} (hrow : EvexRow ctor)
    (hprot : mode = .prot32 → (p0.getLsbD 7 = true ∧ p0.getLsbD 6 = true) ∧
      p0.getLsbD 5 = true ∧ p0.getLsbD 4 = true ∧ p1.getLsbD 6 = true ∧ p2.getLsbD 3 = true)
    (h : takeEvexOperands mode p p0 p1 p2 ctor bytes = .ok (i, rest)) : Reads mode p 5 bytes rest i := by
  simp only [takeEvexOperands] at h
  split at h
  next reg src _ hsrc =>
    cases h
    have hnarrow : (mode == .long64) = false →
        (!p0.getLsbD 5) = false ∧ (!p0.getLsbD 6) = false ∧
          ∀ rm, (reg5 (!p0.getLsbD 6) (!p0.getLsbD 5) rm).val < 8 := by
      intro hno
      obtain ⟨⟨-, h6⟩, h5, -⟩ := hprot (hmode.resolve_left (by simpa using hno))
      rw [h6, h5]
      exact ⟨rfl, rfl, reg5_lt⟩
    obtain ⟨htakes, hshape⟩ := takeModRM_ok hmode hnarrow hsrc
    refine reads_of_source ?_ (hrow mode _).2 htakes
    rw [(hrow mode _).1, EvexOperands.wf, hwf, hshape]
    have hregs : mode = .long64 ∨ (reg5 (!p0.getLsbD 4) (!p0.getLsbD 7) reg).val < 8 ∧
        (reg5 (!p2.getLsbD 3) (!p1.getLsbD 6) (~~~(p1.extractLsb' 3 3))).val < 8 := by
      refine hmode.imp id fun hm => ?_
      obtain ⟨⟨h7, -⟩, -, h4, h16, h23⟩ := hprot hm
      rw [h7, h4, h16, h23]
      exact ⟨reg5_lt _, reg5_lt _⟩
    simpa using hregs
  next => cases h

theorem takeEvex_ok (h : takeEvex mode p bytes = .ok (i, rest)) : Reads mode p 1 bytes rest i := by
  match bytes, h with
  | p0 :: p1 :: p2 :: op :: _, h =>
    simp only [takeEvex] at h
    split at h
    next => cases h
    next htop =>
      split at h
      next => cases h
      next hbits =>
        split at h
        next => exact absurd h reservedEvex_ne_ok
        next =>
          split at h
          next ctor hctor =>
            have hrow : EvexRow ctor := by
              split at hctor
              next => exact evexRow_some hctor
              next => cases hctor
            refine ((((takeEvexOperands_ok hmode hwf hrow (fun hm => ?_) h).cons op).cons p2).cons p1).cons p0
            refine ⟨topBits_of_extract (by_contra fun hne => htop ⟨hm, hne⟩), ?_⟩
            simpa [hm] using hbits
          next => exact absurd h reservedOr_ne_ok

theorem takeLayout_ok {rex : Option Byte} (hrex : p.rex = rex.isSome)
    (h : takeLayout mode p rex bytes = .ok (i, rest)) : Reads mode p 0 bytes rest i := by
  match bytes, h with
  | b :: _, h =>
    simp only [takeLayout] at h
    split_ifs at h
    · exact (takeLegacy_ok hmode hwf hrex h).cons b
    · exact (takeVex3_ok hmode hwf h).cons b
    · exact (takeVex2_ok hmode hwf h).cons b
    · exact (takeEvex_ok hmode hwf h).cons b

end Layouts

/-- REX counts as one more byte of the prefixes. -/
theorem length_with_rex (p : Prefixes) (rex : Bool) (h : p.rex = false) :
    ({ p with rex := rex } : Prefixes).length = p.length + rex.toNat := by
  simp [Prefixes.length, h]

theorem decodeAny_ok {mode : Mode} (hmode : mode = .long64 ∨ mode = .prot32) {bytes rest : List Byte} {i : Instr}
    (h : decodeAny mode bytes = .ok (i, rest)) : i.shaped mode = true ∧ Takes bytes i.length rest := by
  simp only [decodeAny] at h
  split at h
  next => cases h
  next p afterPrefixes hscan =>
    split at h
    next => cases h
    next hpolicy =>
      split at h
      next => cases h
      next rex afterRex hsplit =>
        obtain ⟨hno, n, hpre, hn⟩ := scanPrefixes_ok hscan
        obtain ⟨htakesRex, hlong⟩ := splitRex_ok hsplit
        have hwf := prefixes_wf_of_policy hmode hpolicy hlong
        obtain ⟨hshaped, m, htakes, hlen⟩ := takeLayout_ok hmode hwf rfl h
        have htotal : i.length = n + rex.isSome.toNat + m := by
          have hnil : noPrefixes.length = 0 := rfl
          rw [hlen, length_with_rex p _ hno]
          omega
        exact ⟨hshaped, htotal ▸ (hpre.trans htakesRex).trans htakes⟩

/-- The decoder answers an instruction in the two modes alone, and of at most 15 bytes (R110). -/
theorem decode_ok {mode : Mode} {bytes rest : List Byte} {i : Instr} (h : decode mode bytes = .ok (i, rest)) :
    (mode = .long64 ∨ mode = .prot32) ∧ decodeAny mode bytes = .ok (i, rest) ∧ i.length ≤ maxLength := by
  simp only [decode] at h
  split at h
  next => cases h
  next hmode =>
    split at h
    next hany =>
      split at h
      next hlen =>
        cases h
        exact ⟨by tauto, hany, hlen⟩
      next => cases h
    next => split at h <;> cases h

end Sys2Proof
end

section
/-! PROOFS. The statements of 10_state settled. -/

namespace Sys2Proof.Proofs

open Sys2Proof.Machine Sys2Proof.Safety

/-- Settles O53: every step keeps the frame and the invariant, and both chain along a run. -/
theorem runKeepsFrameAndInvariant : Obligations.RunKeepsFrameAndInvariant := fun _ _ _ h =>
  ⟨run_keeps frame_refl frame_trans step_frame h,
    run_keeps (P := fun s t => Inv s → Inv t) (fun _ => id) (fun f g => g ∘ f)
      (fun hs hi => stepKeepsInvariant _ _ hi hs) h⟩

/-- Settles O14: a completed form advances `pc` by its length, and a fault changes `CR2` at most. -/
theorem pcAdvancesByLength : Obligations.PcAdvancesByLength := by
  refine fun i s => ⟨fun t h => (exec_next h).2.pcAdvanced, fun f _ => ?_⟩
  obtain ⟨a, hf⟩ := stateAtFault_eq f s
  rw [hf]

/-- Settles O7: row 1's result has every property of R171, and a fault leaves all but `CR2`. -/
theorem mmxFormCompletes : Obligations.MmxFormCompletes := by
  refine ⟨completesMmx_of_shape fun _ => rfl, fun o s f _ => ?_⟩
  obtain ⟨a, hf⟩ := stateAtFault_eq f s
  rw [hf]
  exact ⟨rfl, rfl, rfl⟩

/-- Settles O8: the three rows of the legacy layout differ in their element size. -/
theorem legacySseFormsComplete : Obligations.LegacySseFormsComplete :=
  ⟨completesSse_of_shape (fun _ => rfl) fun _ => rfl, completesSse_of_shape (fun _ => rfl) fun _ => rfl,
    completesSse_of_shape (fun _ => rfl) fun _ => rfl⟩

/-- Settles O9: the eight encodings of the VEX layout differ in their element size, vector length and own length. -/
theorem vexFormsComplete : Obligations.VexFormsComplete := by
  refine ⟨?_, ?_, ?_, ?_, ?_, ?_, ?_, ?_⟩ <;>
    exact completesVex_of_shape (fun _ => rfl) (fun _ => rfl) (fun _ => rfl) (by decide)

/-- Settles O12: the next state of an EVEX form is the layout's result for the source that was read. -/
theorem evexWritesWholeRegister : Obligations.EvexWritesWholeRegister := by
  intro i broadcast o s t hs h
  obtain ⟨-, hdone⟩ := exec_next h
  cases hdone with
  | evex _ o' hs' b =>
    cases hs.symm.trans hs'
    obtain ⟨hlow, hzero⟩ := evexResult_writes (elementBits i) (vectorLength i) (vectorLength_le i) o i.length b s
    have hmasked : isMasked o = decide (o.aaa ≠ 0) := by simp [isMasked, bne, Bool.beq_eq_decide_eq]
    exact ⟨⟨b, hmasked ▸ hlow⟩, hzero⟩
  | mmx _ hs' => cases hs.symm.trans hs'
  | sse _ hs' => cases hs.symm.trans hs'
  | vex _ hs' => cases hs.symm.trans hs'

/-- Settles O16: EFLAGS is read for `TF` at launch and for `AC` at the operand's alignment. -/
theorem eflagsReadOnlyForAlignment : Obligations.EflagsReadOnlyForAlignment :=
  fun i _ _ ac tf => exec_withEflags ac tf i

/-- Settles O17: no check, no operand and no result mentions these registers. -/
theorem mxcsrAndX87ControlNeverRead : Obligations.MxcsrAndX87ControlNeverRead :=
  fun i s w c p q a d => exec_withUnread w c p q a d i s

/-- Settles O19: neither `Check_MMX` nor `Check_SSE` mentions XCR0. -/
theorem legacyFormsIgnoreXcr0 : Obligations.LegacyFormsIgnoreXcr0 :=
  fun _ s x h => exec_withXcr0_of_legacy h x s

/-- Settles O44: the offset wraps at the address size, the sum with the base at the mode's width. -/
theorem linearAddressAsInteger : Obligations.LinearAddressAsInteger := by
  intro s pl k
  constructor
  · intro hm
    have hwide : (s.mode != .long64) = false := by rw [hm]; rfl
    rw [byteLinear, cutAddress_add_toNat, byteOffset_toNat, hwide]
    cases pl.seg <;> simp [segmentBase, hm]
  · intro hm hn
    have hnarrow : (s.mode != .long64) = true := by rw [hm]; rfl
    rw [byteLinear, cutAddress_add_toNat, byteOffset_toNat, segmentBase_prot32 hm, hnarrow, hn]
    rfl

/-- Settles O46: each part of the decoder takes the bytes that R147 counts and gives a shape the mode has. -/
theorem decodedIsWellFormedAndLong : Obligations.DecodedIsWellFormedAndLong := by
  intro mode bytes i rest h
  obtain ⟨hmode, hany, hlen⟩ := decode_ok h
  obtain ⟨hshaped, htakes⟩ := decodeAny_ok hmode hany
  exact ⟨by simp [Instr.wf, hshaped, hlen], hlen, htakes⟩

/-- Settles O50: a step is the decoder's answer run, and `#UD` is for the two reserved EVEX patterns. -/
theorem stepRunsTheDecodedInstruction : Obligations.StepRunsTheDecodedInstruction :=
  fun _ hl => ⟨fun _ _ h => step_of_decode_ok hl h,
    fun e h => (step_of_decode_error hl h).trans (undecodable_eq e)⟩

/-- Settles O54: the register files are 0 throughout, the rest is read off the reset state. -/
theorem resetValuesOfTheTable : Obligations.ResetValuesOfTheTable := by
  have hv : ∀ i, State.reset.v.get i = 0 := fun i => Vector.get_replicate _ _ i
  have hr : ∀ i, State.reset.r.get i = 0 := fun i => Vector.get_replicate _ _ i
  refine ⟨fun i => by simp [readV, hv], fun i => by simp [readMm, hr], rfl, rfl, rfl, rfl, rfl, rfl, rfl, rfl, rfl,
    rfl, rfl, rfl, ?_, fun i _ => readX_reset i, rfl, by decide⟩
  decide

/-- Settles O55: INIT leaves the data registers alone and gives the rest the table's values. -/
theorem initValuesOfTheTable : Obligations.InitValuesOfTheTable := by
  have low : ∀ i ∈ [(0 : Fin 16), 1, 3, 4, 5, 6, 7], i.val < 8 := by decide
  intro s
  exact ⟨rfl, rfl, rfl, rfl, rfl, rfl, rfl, rfl, init_cr0_getLsbD s, rfl, rfl, rfl, rfl,
    fun i hi => (readX_init s (low i hi)).trans (readX_reset i), rfl⟩

/-- Settles O57: real-address mode is refused at launch. -/
theorem resetRunsNoInstruction : Obligations.ResetRunsNoInstruction :=
  ⟨step_refused (launchStop_realAddress rfl), fun _ => step_refused (launchStop_realAddress rfl)⟩

end Sys2Proof.Proofs
end

section
/-! PROOFS. Memory given by what it reads (20_memory R80), and the order in which writes of other processors become
visible (R101). -/

namespace Sys2Proof.Machine

open Sys2Proof.Safety

/-! ## Canonical memories -/

/-- The first address listed reads as its own byte, and every address below it as unlisted. -/
theorem head_le_of_readByte_eq {c d : Host.Cell} {m n : Memory} (hc : c.2 ≠ unlistedByte)
    (hn : ∀ e ∈ n, d.1 < e.1) (h : ∀ a, readByte (c :: m) a = readByte (d :: n) a) : d.1 ≤ c.1 := by
  by_contra hlt
  have hbelow : readByte (d :: n) c.1 = unlistedByte :=
    readByte_of_below _ _ (List.forall_mem_cons.2 ⟨by omega, fun e he => by have := hn e he; omega⟩)
  have hhead : readByte (c :: m) c.1 = c.2 := if_pos rfl
  exact hc (by rw [← hhead, h, hbelow])

/-- A canonical memory with a cell listed does not read as the empty one. -/
theorem readByte_cons_ne_nil {c : Host.Cell} {m : Memory} (hc : c.2 ≠ unlistedByte)
    (h : ∀ a, readByte (c :: m) a = readByte [] a) : False :=
  hc ((if_pos rfl : readByte (c :: m) c.1 = c.2).symm.trans (h c.1))

/-- What follows the first cell of a canonical memory reads as unlisted there. -/
theorem readByte_tail (c : Host.Cell) {m : Memory} (hm : ∀ e ∈ m, c.1 < e.1) (a : Nat) :
    readByte m a = if c.1 = a then unlistedByte else readByte (c :: m) a := by
  split
  next h => exact readByte_of_below _ _ (h ▸ hm)
  next h => exact (if_neg h).symm

/-- A canonical memory is given by what it reads. -/
theorem memory_ext {m n : Memory} (hm : Memory.wf m = true) (hn : Memory.wf n = true)
    (h : ∀ a, readByte m a = readByte n a) : m = n := by
  induction m generalizing n with
  | nil =>
    cases n with
    | nil => rfl
    | cons d n => exact (readByte_cons_ne_nil ((memory_wf_cons d n).1 hn).1 fun a => (h a).symm).elim
  | cons c m ih =>
    obtain ⟨hc, hcm, hm⟩ := (memory_wf_cons c m).1 hm
    cases n with
    | nil => exact (readByte_cons_ne_nil hc h).elim
    | cons d n =>
      obtain ⟨hd, hdn, hn⟩ := (memory_wf_cons d n).1 hn
      have haddr : c.1 = d.1 :=
        le_antisymm (head_le_of_readByte_eq hd hcm fun a => (h a).symm) (head_le_of_readByte_eq hc hdn h)
      have hbyte : c.2 = d.2 := by simpa [readByte, haddr] using h d.1
      have htail : m = n := ih hm hn fun a => by rw [readByte_tail c hcm, readByte_tail d hdn, h, haddr]
      rw [htail, Prod.ext haddr hbyte]

/-! ## The order in which writes become visible -/

/-- A write that may become visible next is pending. -/
theorem mem_of_first {ps : List OtherWrite} {w : OtherWrite}
    (first : ps.find? (fun u => u == w || keepsOrder u w) = some w) : w ∈ ps :=
  List.mem_of_find?_eq_some first

/-- What stays pending keeps its order. -/
theorem lands_sublist {ps ls ps' ls' : List OtherWrite} (h : Lands ps ls ps' ls') : ps'.Sublist ps := by
  induction h with
  | none => exact List.Sublist.refl _
  | more _ _ _ ih => exact List.erase_sublist.trans ih

/-- A write is pending or visible, and none is lost or new. -/
theorem lands_perm {ps ls ps' ls' : List OtherWrite} (h : Lands ps ls ps' ls') : (ps' ++ ls').Perm (ps ++ ls) := by
  induction h with
  | none => exact List.Perm.refl _
  | @more ps' ls' w _ first _ ih =>
    have hmoved : (ps'.erase w ++ w :: ls').Perm (w :: ps'.erase w ++ ls') := List.perm_middle
    exact hmoved.trans (((List.perm_cons_erase (mem_of_first first)).symm.append_right ls').trans ih)

/-- If `w2` may not become visible while `w1` is pending, it becomes visible after `w1`. -/
theorem lands_after {ps ls ps' ls' : List OtherWrite} {w1 w2 : OtherWrite}
    (held : ∀ qs : List OtherWrite, qs.Sublist ps → w1 ∈ qs → mayLand qs w2 = false)
    (h : Lands ps ls ps' ls') (h1 : w1 ∈ ps) (h2 : w2 ∉ ls) (hvisible : w2 ∈ ls') :
    ∃ x y z, ls' = x ++ w2 :: y ++ w1 :: z := by
  induction h with
  | none => exact absurd hvisible h2
  | @more ps' ls' w sofar first causal ih =>
    by_cases hw : w = w2
    · subst hw
      have hlanded : w1 ∉ ps' := fun hpending =>
        absurd ((mayLand_iff ps' w).2 ⟨first, causal⟩) (by simp [held ps' (lands_sublist sofar) hpending])
      have h1' : w1 ∈ ps' ++ ls' := (lands_perm sofar).mem_iff.2 (List.mem_append_left _ h1)
      obtain ⟨y, z, rfl⟩ := List.append_of_mem ((List.mem_append.1 h1').resolve_left hlanded)
      exact ⟨[], y, z, rfl⟩
    · obtain ⟨x, y, z, rfl⟩ := ih ((List.mem_cons.1 hvisible).resolve_left (Ne.symm hw))
      exact ⟨w :: x, y, z, rfl⟩

/-- Causality: a write does not become visible before one that it follows. -/
theorem mayLand_false_of_follows {ps : List OtherWrite} {w1 w2 : OtherWrite} (h1 : w1 ∈ ps)
    (follows : w1.id ∈ w2.after) : mayLand ps w2 = false :=
  Bool.eq_false_iff.2 fun h => ((mayLand_iff ps w2).1 h).2 w1 h1 follows

/-- One processor's order: an ordinary write does not become visible before one that stood before it. -/
theorem mayLand_false_of_before {ps : List OtherWrite} {w1 w2 : OtherWrite} (h1 : w1 ∈ ps) (hne : w1 ≠ w2)
    (order : keepsOrder w1 w2 = true) (before : ps.Pairwise fun u v => ¬(u = w2 ∧ v = w1)) :
    mayLand ps w2 = false := by
  refine Bool.eq_false_iff.2 fun h => ?_
  obtain ⟨x, y, rfl, hx⟩ := (mayLand_first_iff ps w2).1 ((mayLand_iff ps w2).1 h).1
  have hy : w1 ∈ y := by
    have hnot : w1 ∉ x := fun hmem => by simp [(hx w1 hmem).2] at order
    simpa [hnot, hne] using h1
  have htail := (List.pairwise_append.1 before).2.1
  exact (List.pairwise_cons.1 htail).1 w1 hy ⟨rfl, rfl⟩

/-- In a list without repetition nothing stands both before and after a member. -/
theorem pairwise_of_before {x y z : List OtherWrite} {w1 w2 : OtherWrite} (h : (x ++ w1 :: y ++ w2 :: z).Nodup) :
    (x ++ w1 :: y ++ w2 :: z).Pairwise fun u v => ¬(u = w2 ∧ v = w1) := by
  obtain ⟨hfront, hback, hdisjoint⟩ := List.nodup_append.1 h
  refine List.pairwise_append.2 ⟨?_, ?_, ?_⟩
  · refine List.pairwise_iff_forall_sublist.2 fun hsub hc => ?_
    exact hdisjoint w2 (hc.1 ▸ hsub.subset (by simp)) w2 (by simp) rfl
  · refine List.pairwise_iff_forall_sublist.2 fun hsub hc => ?_
    exact hdisjoint w1 (by simp) w1 (hc.2 ▸ hsub.subset (by simp)) rfl
  · exact fun u hu v _ hc => hdisjoint u hu w2 (by simp) hc.1

/-- A write with nothing pending that it follows, and no ordinary write of its processor before it if it is ordinary
itself, may become visible next. -/
theorem lands_next {x y : List OtherWrite} (ls : List OtherWrite) {w : OtherWrite}
    (causal : ∀ u ∈ x ++ w :: y, u.id ∉ w.after) (free : ∀ u ∈ x, keepsOrder u w = false) :
    Lands (x ++ w :: y) ls ((x ++ w :: y).erase w) (w :: ls) := by
  refine .more .none ?_ causal
  rw [List.find?_append]
  cases hx : x.find? (fun u => u == w || keepsOrder u w) with
  | none => simp
  | some u =>
    have hu : u = w := by simpa [free u (List.mem_of_find?_eq_some hx)] using List.find?_some hx
    simp [hu]

/-! ## What a run sees of other processors' writes -/

/-- A completed form lets land what its step does. -/
theorem Completed.history {i : Instr} {s t : State} (h : Completed i s t) :
    t.pending = (landing s).1 ∧ t.landed = (landing s).2 := by
  cases h <;> exact ⟨rfl, rfl⟩

theorem landed_of_step {s t : State} (h : step s = .next t) : t.landed = (landing s).2 := by
  obtain ⟨i, hexec⟩ := step_next h
  exact (exec_next hexec).2.history.2

/-- A data read sees at least what was visible before its step, and at most what is visible after it. -/
theorem landed_suffix_seen (s : State) (pl : Place) (n a : Nat) : s.landed <:+ landedSeen s pl n a := by
  obtain ⟨_, h, -⟩ := landedSeen_moment s pl n a
  exact lands_suffix h

theorem seen_suffix_landing (s : State) (pl : Place) (n a : Nat) : landedSeen s pl n a <:+ (landing s).2 := by
  obtain ⟨_, -, h⟩ := landedSeen_moment s pl n a
  exact lands_suffix h

/-- A later data read sees all that an earlier one saw (20_memory R101). -/
theorem seen_suffix_of_run {n : Nat} {s t : State} (h : Sys2Proof.core.run (n + 1) s = .next t) (p q : Place)
    (j k a b : Nat) : landedSeen s p j a <:+ landedSeen t q k b := by
  obtain ⟨u, hfirst, hrest⟩ := run_succ_next h
  have hrun : Frame u t := run_keeps frame_refl frame_trans step_frame hrest
  calc landedSeen s p j a <:+ u.landed := landed_of_step hfirst ▸ seen_suffix_landing s p j a
    _ <:+ t.landed := lands_suffix hrun.history
    _ <:+ landedSeen t q k b := landed_suffix_seen t q k b

end Sys2Proof.Machine
end

section
/-! PROOFS. The outcomes of a memory read in the priority of 60_exceptions R229, and what it sees of memory and of other
processors' writes (20_memory R81, R93 to R101). -/

namespace Sys2Proof.Machine

open Sys2Proof.Safety

/-! ## What stops a memory read -/

/-- The stops of a memory read: the fault or refusal of its address, of its alignment, of its pages, of its regions. -/
inductive ReadStop (s : State) (pl : Place) (n : Nat) (rule : AlignRule) (counted : List Nat) : Stop → Prop where
  | address (k : Nat) (mem : k ∈ counted) (bad : badByte s pl k = true) :
      ReadStop s pl n rule counted (.fault (badAddressFault pl.seg))
  | alignment (r : Refusal) (refused : alignmentStop s pl n rule = .error r) :
      ReadStop s pl n rule counted (.refuse r)
  | levelSix (alignment : Option Fault) (f : Fault) (accepted : alignmentStop s pl n rule = .ok alignment)
      (holds : alignment = some f ∨ operandPageFault s pl counted = some f) :
      ReadStop s pl n rule counted (.fault f)
  | region (k : Nat) (lt : k < n) (r : Refusal) (lies : byteRegion s pl k = some r) :
      ReadStop s pl n rule counted (.refuse r)

theorem memRead_error {s : State} {pl : Place} {n : Nat} {rule : AlignRule} {masked : Bool} {active : Nat → Bool}
    {e : Stop} (h : memRead s pl n rule masked active = .error e) :
    ReadStop s pl n rule (countedBytes s n masked active) e := by
  simp only [memRead] at h
  split at h
  next hbad =>
    obtain ⟨k, hk, hb⟩ := List.any_eq_true.1 hbad
    cases h
    exact .address k hk hb
  next =>
    split at h
    next r hr =>
      cases h
      exact .alignment r hr
    next al hal =>
      split at h
      next f hf =>
        cases h
        exact .levelSix al f hal (levelSix_some s al _ f hf)
      next =>
        split at h
        next r hr =>
          cases h
          obtain ⟨k, hk, hlies⟩ := List.exists_of_findSome?_eq_some hr
          exact .region k (List.mem_range.1 hk) r hlies
        next => cases h

/-- The page fault of a byte: the error code of its translation and its linear address. -/
theorem bytePageFault_some_iff (s : State) (pl : Place) (k : Nat) (code : BitVec 32) (a : Qword) :
    bytePageFault s pl k = some (code, a) ↔ translate s (byteLinear s pl k) = .error code ∧ byteLinear s pl k = a := by
  simp only [bytePageFault]
  split <;> simp_all

/-- The page fault of an operand is that of one of the bytes counted. -/
theorem operandPageFault_report {s : State} {pl : Place} {ks : List Nat} {f : Fault}
    (h : operandPageFault s pl ks = some f) :
    ∃ k ∈ ks, ∃ code, translate s (byteLinear s pl k) = .error code ∧ f = .pageFault code (byteLinear s pl k) := by
  obtain ⟨k, hk, code, a, hfault, rfl⟩ := operandPageFault_some s pl ks f h
  obtain ⟨hcode, rfl⟩ := (bytePageFault_some_iff s pl k code a).1 hfault
  exact ⟨k, hk, code, hcode, rfl⟩

/-- A bad address of a byte that counts comes before everything else. -/
theorem memRead_badAddress {s : State} {pl : Place} {n : Nat} (rule : AlignRule) {masked : Bool} {active : Nat → Bool}
    {k : Nat} (hk : k ∈ countedBytes s n masked active) (hbad : badByte s pl k = true) :
    memRead s pl n rule masked active = .error (.fault (badAddressFault pl.seg)) :=
  if_pos (List.any_eq_true.2 ⟨k, hk, hbad⟩)

section GoodAddress

variable {s : State} {pl : Place} {n : Nat} {rule : AlignRule} {masked : Bool} {active : Nat → Bool}
variable (good : ∀ k < n, badByte s pl k = false)

include good

theorem any_badByte_counted : (countedBytes s n masked active).any (badByte s pl) = false :=
  List.any_eq_false.2 fun k hk => by simp [good k (countedBytes_lt s n masked active k hk)]

/-- A refused alignment comes before page faults and regions. -/
theorem memRead_alignmentRefused {r : Refusal} (ha : alignmentStop s pl n rule = .error r) :
    memRead s pl n rule masked active = .error (.refuse r) := by
  simp only [memRead, any_badByte_counted good, ha]
  rfl

/-- A fault of priority level 6 comes before regions. -/
theorem memRead_levelSix {alignment : Option Fault} {f : Fault} (ha : alignmentStop s pl n rule = .ok alignment)
    (hsix : levelSix s alignment (operandPageFault s pl (countedBytes s n masked active)) = some f) :
    memRead s pl n rule masked active = .error (.fault f) := by
  simp only [memRead, any_badByte_counted good, ha, hsix]
  rfl

/-- An alignment fault, where every byte is translated. -/
theorem memRead_alignmentFault {f : Fault} (ha : alignmentStop s pl n rule = .ok (some f))
    (mapped : ∀ k < n, ∃ a, translate s (byteLinear s pl k) = .ok a) :
    memRead s pl n rule masked active = .error (.fault f) := by
  refine memRead_levelSix good ha ?_
  have hpage : operandPageFault s pl (countedBytes s n masked active) = none :=
    (operandPageFault_none_iff s pl _).2 fun k hk =>
      (bytePageFault_none_iff s pl k).2 (mapped k (countedBytes_lt s n masked active k hk))
  rw [hpage]
  rfl

/-- A page fault of a byte that counts, where the alignment condition is met: some byte counted reports its own. -/
theorem memRead_pageFault {k : Nat} (ha : alignmentStop s pl n rule = .ok none)
    (hk : k ∈ countedBytes s n masked active) (unmapped : ∀ a, translate s (byteLinear s pl k) ≠ .ok a) :
    ∃ j < n, ∃ code, translate s (byteLinear s pl j) = .error code ∧
      memRead s pl n rule masked active = .error (.fault (.pageFault code (byteLinear s pl j))) := by
  cases hpage : operandPageFault s pl (countedBytes s n masked active) with
  | none =>
    obtain ⟨a, hmapped⟩ := (bytePageFault_none_iff s pl k).1 ((operandPageFault_none_iff s pl _).1 hpage k hk)
    exact absurd hmapped (unmapped a)
  | some f =>
    obtain ⟨j, hj, code, hcode, rfl⟩ := operandPageFault_report hpage
    exact ⟨j, countedBytes_lt s n masked active j hj, code, hcode,
      memRead_levelSix good ha (by rw [hpage]; rfl)⟩

/-- An operand in a region that is not ordinary memory is refused, where nothing else stops the read. -/
theorem memRead_region (ha : alignmentStop s pl n rule = .ok none)
    (mapped : ∀ k < n, ∃ a, translate s (byteLinear s pl k) = .ok a)
    (lies : ∃ k < n, byteRegion s pl k ≠ none) :
    ∃ k < n, ∃ r, byteRegion s pl k = some r ∧ memRead s pl n rule masked active = .error (.refuse r) := by
  cases hread : memRead s pl n rule masked active with
  | ok bytes =>
    obtain ⟨-, -, -, hordinary⟩ := memRead_ok s pl n rule masked active bytes hread
    obtain ⟨k, hk, hlies⟩ := lies
    exact absurd (hordinary k hk) hlies
  | error e =>
    cases memRead_error hread with
    | address k hk hbad => simp [good k (countedBytes_lt s n masked active k hk)] at hbad
    | alignment r hr => simp [ha] at hr
    | levelSix al f hal hf =>
      cases ha.symm.trans hal
      obtain ⟨k, hk, code, hcode, -⟩ := operandPageFault_report (hf.resolve_left nofun)
      obtain ⟨a, hmapped⟩ := mapped k (countedBytes_lt s n masked active k hk)
      cases hmapped.symm.trans hcode
    | region k hk r hr => exact ⟨k, hk, r, hr, rfl⟩

end GoodAddress

/-! ## Bad addresses -/

/-- Where the bits from `bits - 1` up are not all equal, an address is not canonical (20_memory R97). -/
theorem canonical_false_of_bit_ne {bits n : Nat} {a : Qword} (hlow : bits - 1 ≤ n) (hn : n < 64)
    (hne : a.getLsbD n ≠ a.getLsbD 63) : canonical bits a = false := by
  refine Bool.eq_false_iff.2 fun h => hne ?_
  have hshift : ∀ m, bits - 1 ≤ m → a.getLsbD m = (a.toNat >>> (bits - 1)).testBit (m - (bits - 1)) := by
    intro m hm
    rw [Nat.testBit_shiftRight, Nat.add_sub_cancel' hm]
    rfl
  rw [hshift n hlow, hshift 63 (by omega)]
  simp only [canonical, Bool.or_eq_true, beq_iff_eq] at h
  obtain h | h := h
  · rw [h, Nat.zero_testBit, Nat.zero_testBit]
  · rw [h, Nat.testBit_two_pow_sub_one, Nat.testBit_two_pow_sub_one, decide_eq_true (by omega), decide_eq_true (by omega)]

theorem badByte_long64 {s : State} (hm : s.mode = .long64) (pl : Place) (k : Nat) :
    badByte s pl k = !canonical (linearBits s) (byteLinear s pl k) := if_pos hm

theorem badByte_prot32 {s : State} (hm : s.mode = .prot32) (pl : Place) (k : Nat) :
    badByte s pl k = segmentViolation (segReg s pl.seg) (byteOffset pl k) := if_neg (by simp [hm])

/-- A fault of a bad address changes nothing (60_exceptions R231). -/
theorem stateAtFault_badAddress (g : SegName) (s : State) : stateAtFault (badAddressFault g) s = s := by
  unfold badAddressFault
  split <;> rfl

/-! ## Error codes -/

/-- The error code of a data read: W/R and I/D are 0, U/S says whether `CPL` is 3 (20_memory R98). -/
theorem translate_error_bits {s : State} {lin : Qword} {code : BitVec 32} (h : translate s lin = .error code) :
    code.getLsbD 1 = false ∧ code.getLsbD 4 = false ∧
      code.getLsbD 2 = decide (s.segs.cs.selector.extractLsb' 0 2 = 3) := by
  have bits : ∀ user p r k : Bool, (pageFaultCode user p r k).getLsbD 1 = false ∧
      (pageFaultCode user p r k).getLsbD 4 = false ∧ (pageFaultCode user p r k).getLsbD 2 = user := by decide
  have huser : (cpl s == 3) = decide (s.segs.cs.selector.extractLsb' 0 2 = 3) := by
    rw [Bool.eq_iff_iff, beq_iff_eq, decide_eq_true_iff]
    exact BitVec.toNat_inj (y := 3#2)
  simp only [translate] at h
  split at h
  next => cases h
  next p r k _ =>
    cases h
    rw [← huser]
    exact bits _ p r k

/-! ## Memory and other processors' writes replaced -/

/-- The state with memory and the writes of other processors replaced. -/
def withHistory (m : Memory) (ps ls : List OtherWrite) (s : State) : State :=
  { s with mem := m, pending := ps, landed := ls }

section WithHistory

variable {m : Memory} {ps ls : List OtherWrite} {s : State}

/-- A memory read sees memory and other processors' writes in the bytes of its operand alone. -/
theorem memRead_withHistory {pl : Place} {n : Nat} (rule : AlignRule) (masked : Bool) (active : Nat → Bool)
    (h : ∀ k < n, byteValue (withHistory m ps ls s) pl n k = byteValue s pl n k) :
    memRead (withHistory m ps ls s) pl n rule masked active = memRead s pl n rule masked active := by
  have hbytes : (List.range n).map (byteValue (withHistory m ps ls s) pl n) = (List.range n).map (byteValue s pl n) :=
    List.map_congr_left fun k hk => h k (List.mem_range.1 hk)
  simp only [memRead, hbytes]
  rfl

/-- A byte reads alike where the data read of its physical address does. -/
theorem byteValue_withHistory {pl : Place} {n k : Nat}
    (h : ∀ a, bytePhysical s pl k = some a → dataByte (withHistory m ps ls s) pl n a = dataByte s pl n a) :
    byteValue (withHistory m ps ls s) pl n k = byteValue s pl n k := by
  have hphysical : bytePhysical (withHistory m ps ls s) pl k = bytePhysical s pl k := rfl
  simp only [byteValue, hphysical]
  cases hp : bytePhysical s pl k with
  | none => rfl
  | some a => exact h a hp

end WithHistory

/-- The byte seen at an address asks of memory the byte there. -/
theorem seenByte_congr {m m' : Memory} (ls : List OtherWrite) {a : Nat} (h : readByte m a = readByte m' a) :
    seenByte m ls a = seenByte m' ls a := by
  induction ls with
  | nil => exact h
  | cons w ls ih => rw [seenByte, seenByte, ih]

/-- The read of an operand of at most 8 consecutive bytes, at a multiple of their number, is atomic (20_memory R93). -/
theorem atomicRead_of_aligned {s : State} {pl : Place} {n : Nat} (hn : n ≤ 8)
    (aligned : (byteLinear s pl 0).toNat % n = 0)
    (consecutive : ∀ k < n, (byteLinear s pl k).toNat = (byteLinear s pl 0).toNat + k) : atomicRead s pl n = true := by
  have hlast : (byteLinear s pl (n - 1)).toNat = (byteLinear s pl 0).toNat + (n - 1) := by
    cases n with
    | zero => rfl
    | succ n => exact consecutive n (Nat.lt_succ_self n)
  simp [atomicRead, hn, aligned, hlast]

end Sys2Proof.Machine
end

section
/-! PROOFS. How an instruction runs, whatever its layout: its check, the read of its memory operand (20_memory R81, R82, R86),
its result. -/

namespace Sys2Proof.Machine

open Sys2Proof.Safety

/-! ## The read of the memory operand -/

/-- What the form asks of the address of its memory operand (20_memory R88 to R91). -/
def alignRuleOf (i : Instr) : AlignRule :=
  match shapeOf i with
  | .mmx _ => .eight
  | .sse _ => .sixteen
  | .vex _ => .free
  | .evex _ _ => .free

/-- Does a writemask name the elements of the form (20_memory R94)? -/
def maskedForm (i : Instr) : Bool :=
  match shapeOf i with
  | .evex _ o => isMasked o
  | _ => false

/-- The read of the memory operand of an instruction. -/
def operandRead (i : Instr) (s : State) (op : Operand) : Except Stop (List Byte) :=
  memRead s op.place op.bytes (alignRuleOf i) (maskedForm i) (byteUsed i s)

/-- The fault of a byte in use counts in that read. -/
theorem mem_counted_of_used {i : Instr} {s : State} {op : Operand} {k : Nat} (hk : k < op.bytes)
    (used : byteUsed i s k = true) : k ∈ countedBytes s op.bytes (maskedForm i) (byteUsed i s) :=
  countedBytes_active s op.bytes _ _ k hk used

/-- The value that the bytes of a full-width operand make (20_memory R84). -/
def bytesValue (w : Nat) (bytes : List Byte) : BitVec w := BitVec.ofNat w (littleEndian bytes)

/-- The value that the bytes of an EVEX form's operand make: one element in every lane where it is broadcast. -/
def evexValue (N VL : Nat) (o : EvexOperands) (bytes : List Byte) : BitVec VL :=
  if o.b then bcast N VL (bytesValue N bytes) else bytesValue VL bytes

/-- The bytes of an EVEX form's operand: one element where it is broadcast. -/
def evexBytes (N VL : Nat) (o : EvexOperands) : Nat := if o.b then N / 8 else VL / 8

theorem operandFrom_some {w : Nat} {s : State} {p : Prefixes} {n len bytes : Nat} {src : Source w} {op : Operand}
    (h : operandFrom s p n len bytes src = some op) :
    ∃ m, src = .mem m ∧ op = { place := placeOf s p n len m, bytes := bytes } := by
  cases src with
  | reg r => cases h
  | mem m =>
    cases h
    exact ⟨m, rfl, rfl⟩

/-- The second source where it is a register; for one in memory the value is never used. -/
def registerValue {n w : Nat} (src : Source n) (read : Fin n → BitVec w) : BitVec w :=
  match src with
  | .reg r => read r
  | .mem _ => 0

/-- The second source of an instruction: the value of its operand's bytes, or a register. -/
def sourceOf {w : Nat} (i : Instr) (s : State) (value : List Byte → BitVec w) (register : State → BitVec w) :
    Except Stop (BitVec w) :=
  match operandOf i s with
  | none => .ok (register s)
  | some op => (operandRead i s op).map value

theorem sourceOf_none {w : Nat} {i : Instr} {s : State} (ho : operandOf i s = none) (value : List Byte → BitVec w)
    (register : State → BitVec w) : sourceOf i s value register = .ok (register s) := by
  rw [sourceOf, ho]

theorem sourceOf_some {w : Nat} {i : Instr} {s : State} {op : Operand} (ho : operandOf i s = some op)
    (value : List Byte → BitVec w) (register : State → BitVec w) :
    sourceOf i s value register = (operandRead i s op).map value := by
  rw [sourceOf, ho]

theorem loadFull_eq (VL : Nat) (rule : AlignRule) (p : Prefixes) (len : Nat) (m : MemOperand) (s : State) :
    loadFull VL rule p len m s =
      (memRead s (placeOf s p 1 len m) (VL / 8) rule false fun _ => true).map (bytesValue VL) := by
  rw [loadFull]
  cases memRead s (placeOf s p 1 len m) (VL / 8) rule false fun _ => true <;> rfl

/-! ## The second source of each layout -/

section Sources

variable {i : Instr} {s : State} {op : Operand}

/-- Without a writemask every byte is in use. -/
theorem byteUsed_of_unmasked (hs : ∀ broadcast o, shapeOf i ≠ .evex broadcast o) : byteUsed i s = fun _ => true := by
  funext k
  cases h : shapeOf i with
  | evex broadcast o => exact absurd h (hs broadcast o)
  | _ => simp only [byteUsed, h]

theorem operandRead_of_mmx {o : MmxOperands} (hs : shapeOf i = .mmx o) :
    operandRead i s op = memRead s op.place op.bytes .eight false fun _ => true := by
  rw [operandRead, byteUsed_of_unmasked (by simp [hs]), alignRuleOf, maskedForm, hs]

theorem operandRead_of_sse {o : SseOperands} (hs : shapeOf i = .sse o) :
    operandRead i s op = memRead s op.place op.bytes .sixteen false fun _ => true := by
  rw [operandRead, byteUsed_of_unmasked (by simp [hs]), alignRuleOf, maskedForm, hs]

theorem operandRead_of_vex {o : VexOperands} (hs : shapeOf i = .vex o) :
    operandRead i s op = memRead s op.place op.bytes .free false fun _ => true := by
  rw [operandRead, byteUsed_of_unmasked (by simp [hs]), alignRuleOf, maskedForm, hs]

theorem mmxSource_eq {o : MmxOperands} (hs : shapeOf i = .mmx o) (s : State) :
    mmxSource o i.length s = sourceOf i s (bytesValue 64) fun s => registerValue o.src (readMm s) := by
  have ho : operandOf i s = operandFrom s o.pfx 1 i.length 8 o.src := by rw [operandOf, hs]
  cases hsrc : o.src with
  | reg r =>
    rw [hsrc] at ho
    rw [sourceOf_none ho, mmxSource, hsrc]
    rfl
  | mem m =>
    rw [hsrc] at ho
    rw [sourceOf_some ho, operandRead_of_mmx hs, mmxSource, hsrc]
    exact loadFull_eq 64 .eight o.pfx i.length m s

theorem sseSource_eq {o : SseOperands} (hs : shapeOf i = .sse o) (s : State) :
    sseSource o i.length s = sourceOf i s (bytesValue 128) fun s => registerValue o.src (readV 128 s ∘ vreg) := by
  have ho : operandOf i s = operandFrom s o.pfx 1 i.length 16 o.src := by rw [operandOf, hs]
  cases hsrc : o.src with
  | reg r =>
    rw [hsrc] at ho
    rw [sourceOf_none ho, sseSource, hsrc]
    rfl
  | mem m =>
    rw [hsrc] at ho
    rw [sourceOf_some ho, operandRead_of_sse hs, sseSource, hsrc]
    exact loadFull_eq 128 .sixteen o.pfx i.length m s

theorem vexSource_eq {o : VexOperands} (hs : shapeOf i = .vex o) (s : State) :
    vexSource (vectorLength i) o i.length s =
      sourceOf i s (bytesValue (vectorLength i)) fun s => registerValue o.src (readV (vectorLength i) s ∘ vreg) := by
  have ho : operandOf i s = operandFrom s o.pfx 1 i.length (vectorLength i / 8) o.src := by rw [operandOf, hs]
  cases hsrc : o.src with
  | reg r =>
    rw [hsrc] at ho
    rw [sourceOf_none ho, vexSource, hsrc]
    rfl
  | mem m =>
    rw [hsrc] at ho
    rw [sourceOf_some ho, operandRead_of_vex hs, vexSource, hsrc]
    exact loadFull_eq (vectorLength i) .free o.pfx i.length m s

theorem lanes_pos {broadcast : Bool} {o : EvexOperands} (hs : shapeOf i = .evex broadcast o) :
    0 < vectorLength i / elementBits i := by
  cases i <;> cases hs <;> simp [elementBits, vectorLength]

theorem laneActive_isMasked (o : EvexOperands) (s : State) (j : Nat) :
    laneActive (readK s o.aaa) (isMasked o) j = (o.aaa == 0 || (s.k.get o.aaa).getLsbD j) := by
  simp [laneActive, isMasked, readK, bne]

/-- The bytes in use of an EVEX form: all if some lane is active, for one element; those of active lanes otherwise. -/
theorem byteUsed_of_evex {broadcast : Bool} {o : EvexOperands} (hs : shapeOf i = .evex broadcast o) :
    byteUsed i s =
      if o.b then fun _ => anyActive (elementBits i) (vectorLength i) o s else byteActive (elementBits i) o s := by
  have hany : anyActive (elementBits i) (vectorLength i) o s =
      (o.aaa == 0 || (List.range (vectorLength i / elementBits i)).any fun j => (s.k.get o.aaa).getLsbD j) := by
    have hfun := funext (laneActive_isMasked o s)
    rw [anyActive, hfun]
    cases o.aaa == 0 with
    | false => rfl
    | true => exact List.any_eq_true.2 ⟨0, List.mem_range.2 (lanes_pos hs), rfl⟩
  funext k
  simp only [byteUsed, hs]
  cases o.b with
  | false => exact (laneActive_isMasked o s _).symm
  | true => exact hany.symm

theorem operandOf_evex {broadcast : Bool} {o : EvexOperands} (hs : shapeOf i = .evex broadcast o) :
    operandOf i s = operandFrom s o.pfx (evexBytes (elementBits i) (vectorLength i) o) i.length
      (evexBytes (elementBits i) (vectorLength i) o) o.src := by
  simp only [operandOf, hs, evexBytes]
  split <;> rfl

theorem evexSource_mem (N VL : Nat) {o : EvexOperands} {m : MemOperand} (hm : o.src = .mem m) (len : Nat) (s : State) :
    evexSource N VL o len s =
      (memRead s (placeOf s o.pfx (evexBytes N VL o) len m) (evexBytes N VL o) .free (isMasked o)
        (if o.b then fun _ => anyActive N VL o s else byteActive N o s)).map (evexValue N VL o) := by
  have hvalue : evexValue N VL o = fun bytes => if o.b then bcast N VL (bytesValue N bytes) else bytesValue VL bytes :=
    rfl
  simp only [evexSource, hm, evexBytes, hvalue]
  cases o.b with
  | false =>
    simp only [Bool.false_eq_true, if_false]
    cases memRead s (placeOf s o.pfx (VL / 8) len m) (VL / 8) .free (isMasked o) (byteActive N o s) <;> rfl
  | true =>
    simp only [if_true]
    cases memRead s (placeOf s o.pfx (N / 8) len m) (N / 8) .free (isMasked o) (fun _ => anyActive N VL o s) <;> rfl

theorem evexSource_eq {broadcast : Bool} {o : EvexOperands} (hs : shapeOf i = .evex broadcast o) (s : State) :
    evexSource (elementBits i) (vectorLength i) o i.length s =
      sourceOf i s (evexValue (elementBits i) (vectorLength i) o)
        fun s => registerValue o.src (readV (vectorLength i) s) := by
  have ho := operandOf_evex (s := s) hs
  cases hsrc : o.src with
  | reg r =>
    rw [hsrc] at ho
    rw [sourceOf_none ho, evexSource, hsrc]
    rfl
  | mem m =>
    rw [hsrc] at ho
    rw [sourceOf_some ho, evexSource_mem _ _ hsrc, operandRead, byteUsed_of_evex hs, alignRuleOf, maskedForm, hs]

end Sources

/-! ## Running a form -/

/-- The faults that the checks of 60_exceptions R230 answer. -/
def CheckFault (f : Fault) : Prop := f = .invalidOpcode ∨ f = .deviceNotAvailable ∨ f = .mathFault

theorem checkMmx_fault {p : Prefixes} {s : State} {f : Fault} (h : checkMmx p s = some (.fault f)) : CheckFault f := by
  simp only [checkMmx] at h
  split at h
  next => cases h
  next => split_ifs at h <;> cases h <;> simp [CheckFault]

theorem checkSse_fault {flag : Feature} {p : Prefixes} {s : State} {f : Fault}
    (h : checkSse flag p s = some (.fault f)) : CheckFault f := by
  simp only [checkSse] at h
  split at h
  next => cases h
  next => split_ifs at h <;> cases h <;> simp [CheckFault]

theorem checkVex_fault {flag : Feature} {p : Prefixes} {s : State} {f : Fault}
    (h : checkVex flag p s = some (.fault f)) : CheckFault f := by
  simp only [checkVex] at h
  split at h
  next => cases h
  next => split_ifs at h <;> cases h <;> simp [CheckFault]

theorem checkEvex_fault {flags : List Feature} {broadcast : Bool} {o : EvexOperands} {s : State} {f : Fault}
    (h : checkEvex flags broadcast o s = some (.fault f)) : CheckFault f := by
  simp only [checkEvex] at h
  split at h
  next => cases h
  next => split_ifs at h <;> cases h <;> simp [CheckFault]

theorem checkEvex_of_ready {i : Instr} {broadcast : Bool} {o : EvexOperands} {s : State}
    (hs : shapeOf i = .evex broadcast o) (h : Ready i s) : checkEvex (rowFeatures i) broadcast o s = none := by
  simp only [Ready, Decodable, hs] at h
  obtain ⟨hl, ⟨hflags, hpfx, hallowed, hosxsave, havx, havx512⟩, hts, -⟩ := h
  exact (checkEvex_none_iff _ _ _ _).2 ⟨hl, hpfx, hallowed, hosxsave, havx, havx512, hflags, hts⟩

/-- How an instruction runs, whatever its layout: a check, the second source, a result. A ready form passes its check;
neither check, register nor result sees memory or other processors' writes, which the result keeps and lets land. -/
structure Running (i : Instr) (w : Nat) where
  check : State → Option Stop
  value : List Byte → BitVec w
  register : State → BitVec w
  result : BitVec w → State → State
  exec_eq : ∀ s, exec i s = answer (check s) (sourceOf i s value register) fun b => result b s
  check_ready : ∀ s, Ready i s → check s = none
  check_fault : ∀ s f, check s = some (.fault f) → CheckFault f
  check_history : ∀ m ps ls s, check (withHistory m ps ls s) = check s
  register_history : ∀ m ps ls s, register (withHistory m ps ls s) = register s
  result_history : ∀ m ps ls s b,
    result b s = withHistory s.mem (landing s).1 (landing s).2 (result b (withHistory m ps ls s))

/-- Row 1 runs so. -/
def runningMmx {i : Instr} {o : MmxOperands} (hs : shapeOf i = .mmx o) : Running i 64 where
  check := checkMmx o.pfx
  value := bytesValue 64
  register s := registerValue o.src (readMm s)
  result b s := mmxResult 16 o i.length b s
  exec_eq s := by rw [exec_of_mmx hs, runMmx_eq_answer, mmxSource_eq hs]
  check_ready _ := checkMmx_of_ready hs
  check_fault _ _ := checkMmx_fault
  check_history _ _ _ _ := rfl
  register_history _ _ _ _ := rfl
  result_history _ _ _ _ _ := rfl

/-- Rows 2 to 4 run so. -/
def runningSse {i : Instr} {o : SseOperands} (hs : shapeOf i = .sse o) {flag : Feature} (hf : rowFeatures i = [flag])
    (hrun : ∀ s, exec i s = runSse (elementBits i) flag o i.length s) : Running i 128 where
  check := checkSse flag o.pfx
  value := bytesValue 128
  register s := registerValue o.src (readV 128 s ∘ vreg)
  result b s := sseResult (elementBits i) o i.length b s
  exec_eq s := by rw [hrun, runSse_eq_answer, sseSource_eq hs]
  check_ready _ := checkSse_of_ready hs hf
  check_fault _ _ := checkSse_fault
  check_history _ _ _ _ := rfl
  register_history _ _ _ _ := rfl
  result_history _ _ _ _ _ := rfl

/-- Rows 5 to 10 run so. -/
def runningVex {i : Instr} {o : VexOperands} (hs : shapeOf i = .vex o) {flag : Feature} (hf : rowFeatures i = [flag])
    (hrun : ∀ s, exec i s = runVex (elementBits i) (vectorLength i) flag o i.length s) :
    Running i (vectorLength i) where
  check := checkVex flag o.pfx
  value := bytesValue (vectorLength i)
  register s := registerValue o.src (readV (vectorLength i) s ∘ vreg)
  result b s := vexResult (elementBits i) (vectorLength i) o i.length b s
  exec_eq s := by rw [hrun, runVex_eq_answer, vexSource_eq hs]
  check_ready _ := checkVex_of_ready hs hf
  check_fault _ _ := checkVex_fault
  check_history _ _ _ _ := rfl
  register_history _ _ _ _ := rfl
  result_history _ _ _ _ _ := rfl

/-- Rows 11 to 22 run so. -/
def runningEvex {i : Instr} {broadcast : Bool} {o : EvexOperands} (hs : shapeOf i = .evex broadcast o) :
    Running i (vectorLength i) where
  check := checkEvex (rowFeatures i) broadcast o
  value := evexValue (elementBits i) (vectorLength i) o
  register s := registerValue o.src (readV (vectorLength i) s)
  result b s := evexResult (elementBits i) (vectorLength i) o i.length b s
  exec_eq s := by rw [exec_of_evex hs, runEvex_eq_answer, evexSource_eq hs]
  check_ready _ := checkEvex_of_ready hs
  check_fault _ _ := checkEvex_fault
  check_history _ _ _ _ := rfl
  register_history _ _ _ _ := rfl
  result_history _ _ _ _ _ := rfl

theorem exists_running (i : Instr) : ∃ w, Nonempty (Running i w) := by
  cases hs : shapeOf i with
  | mmx o => exact ⟨_, ⟨runningMmx hs⟩⟩
  | sse o =>
    obtain ⟨flag, hf, hrun⟩ := exec_of_sse hs
    exact ⟨_, ⟨runningSse hs hf hrun⟩⟩
  | vex o =>
    obtain ⟨flag, hf, hrun⟩ := exec_of_vex hs
    exact ⟨_, ⟨runningVex hs hf hrun⟩⟩
  | evex broadcast o => exact ⟨_, ⟨runningEvex hs⟩⟩

end Sys2Proof.Machine
end

section
/-! PROOFS. The outcomes that the read of the operand decides (60_exceptions R229), and what an instruction reads of memory
and of other processors' writes (20_memory R81, R93, R101). -/

namespace Sys2Proof.Machine

open Sys2Proof.Safety

/-! ## Stops of the operand's read -/

/-- A ready instruction whose operand read stops, stops so. -/
theorem exec_of_operandRead_error {i : Instr} {s : State} {op : Operand} {e : Stop} (hready : Ready i s)
    (ho : operandOf i s = some op) (h : operandRead i s op = .error e) : exec i s = e.outcome := by
  obtain ⟨w, ⟨run⟩⟩ := exists_running i
  rw [run.exec_eq, run.check_ready s hready, sourceOf_some ho, h]
  rfl

theorem stop_of_fault {e : Stop} {f : Fault} (h : e.outcome = .fault f) : e = .fault f := by
  cases e <;> cases h
  rfl

/-- A fault is that of a check or of the operand's read. -/
theorem exec_fault {i : Instr} {s : State} {f : Fault} (h : exec i s = .fault f) :
    CheckFault f ∨ ∃ op, operandOf i s = some op ∧ operandRead i s op = .error (.fault f) := by
  obtain ⟨w, ⟨run⟩⟩ := exists_running i
  rw [run.exec_eq] at h
  cases hcheck : run.check s with
  | some e =>
    rw [hcheck] at h
    exact .inl (run.check_fault s f (hcheck.trans (congrArg some (stop_of_fault h))))
  | none =>
    rw [hcheck] at h
    cases ho : operandOf i s with
    | none =>
      rw [sourceOf_none ho] at h
      cases h
    | some op =>
      rw [sourceOf_some ho] at h
      cases hread : operandRead i s op with
      | ok bytes =>
        rw [hread] at h
        cases h
      | error e =>
        rw [hread] at h
        exact .inr ⟨op, rfl, hread.trans (congrArg _ (stop_of_fault h))⟩

/-- The alignment condition of a form's operand is met where its rule lets the address pass (20_memory R88 to R91). -/
theorem alignmentStop_of_met {i : Instr} {s : State} {op : Operand}
    (h : AlignmentMet i s op) : alignmentStop s op.place op.bytes (alignRuleOf i) = .ok none := by
  cases hs : shapeOf i with
  | mmx o =>
    simp only [AlignmentMet, alignRuleOf, hs] at h ⊢
    exact alignmentStop_eight _ _ _ h
  | sse o =>
    simp only [AlignmentMet, alignRuleOf, hs] at h ⊢
    exact alignmentStop_sixteen _ _ _ h
  | vex o =>
    simp only [AlignmentMet, alignRuleOf, hs] at h ⊢
    exact alignmentStop_free _ _ _ h
  | evex broadcast o =>
    simp only [AlignmentMet, alignRuleOf, hs] at h ⊢
    exact alignmentStop_free _ _ _ h

/-- Only row 1's rule answers an alignment check (20_memory R91). -/
theorem mmx_of_alignmentStop_check {i : Instr} {s : State} {pl : Place} {n : Nat}
    (h : alignmentStop s pl n (alignRuleOf i) = .ok (some .alignmentCheck)) : ∃ o, shapeOf i = .mmx o := by
  cases hs : shapeOf i with
  | mmx o => exact ⟨o, rfl⟩
  | sse o =>
    simp only [alignRuleOf, hs, alignmentStop] at h
    split_ifs at h <;> cases h
  | vex o =>
    simp only [alignRuleOf, hs, alignmentStop] at h
    split_ifs at h
    cases h
  | evex broadcast o =>
    simp only [alignRuleOf, hs, alignmentStop] at h
    split_ifs at h
    cases h

theorem alignCheckEnabled_of_bits {s : State} (ham : s.cr0.getLsbD 18 = true) (hac : s.eflags.getLsbD 18 = true)
    (hcpl : s.segs.cs.selector.extractLsb' 0 2 = 3) : alignCheckEnabled s = true := by
  simp [alignCheckEnabled, cr0Am, eflagsAc, cpl, ham, hac, hcpl]

/-- Rows 2 to 4 fault off a 16-byte boundary in a segment whose base is one (20_memory R88). -/
theorem alignmentStop_sixteen_unaligned {s : State} {pl : Place} {n : Nat}
    (hbase : (segmentBase s pl.seg).toNat % 16 = 0) (haddr : (byteLinear s pl 0).extractLsb' 0 4 ≠ 0) :
    alignmentStop s pl n .sixteen = .ok (some .generalProtection) := by
  have hunaligned : (byteLinear s pl 0).toNat % 16 ≠ 0 := fun h =>
    haddr (BitVec.eq_of_toNat_eq (by simpa [BitVec.extractLsb'_toNat] using h))
  simp [alignmentStop, unaligned, hbase, hunaligned]

/-- Row 1 faults off an 8-byte boundary under alignment checking (20_memory R91). -/
theorem alignmentStop_eight_unaligned {s : State} {pl : Place} {n : Nat} (hcheck : alignCheckEnabled s = true)
    (haddr : (byteLinear s pl 0).toNat % 8 ≠ 0) : alignmentStop s pl n .eight = .ok (some .alignmentCheck) := by
  simp [alignmentStop, unaligned, hcheck, haddr]

/-- Rows 5 to 22 are refused there (20_memory R91, D10). -/
theorem alignmentStop_free_unaligned {s : State} {pl : Place} {n : Nat} (hcheck : alignCheckEnabled s = true)
    (haddr : (byteLinear s pl 0).toNat % n ≠ 0) : alignmentStop s pl n .free = .error .vectorAlignmentCheck := by
  simp [alignmentStop, unaligned, hcheck, haddr]

theorem exec_vectorAlignmentCheck {i : Instr} {s : State} {op : Operand} (hready : Ready i s)
    (ho : operandOf i s = some op) (good : ∀ k < op.bytes, badByte s op.place k = false) (hrule : alignRuleOf i = .free)
    (hcheck : alignCheckEnabled s = true) (haddr : (byteLinear s op.place 0).toNat % op.bytes ≠ 0) :
    exec i s = .refused .vectorAlignmentCheck := by
  have hstop : alignmentStop s op.place op.bytes (alignRuleOf i) = .error .vectorAlignmentCheck :=
    hrule ▸ alignmentStop_free_unaligned hcheck haddr
  exact exec_of_operandRead_error hready ho (memRead_alignmentRefused good hstop)

theorem bytes_of_mmx_operand {i : Instr} {o : MmxOperands} {s : State} {op : Operand} (hs : shapeOf i = .mmx o)
    (ho : operandOf i s = some op) : op.bytes = 8 := by
  rw [operandOf, hs] at ho
  obtain ⟨m, -, rfl⟩ := operandFrom_some ho
  rfl

/-- A bad address of a byte in use is answered by its fault. -/
theorem exec_badAddress {i : Instr} {s : State} {op : Operand} {k : Nat} (hready : Ready i s)
    (ho : operandOf i s = some op) (hk : k < op.bytes) (used : byteUsed i s k = true)
    (hbad : badByte s op.place k = true) : exec i s = .fault (badAddressFault op.place.seg) :=
  exec_of_operandRead_error hready ho (memRead_badAddress _ (mem_counted_of_used hk used) hbad)

/-- An alignment check is row 1's: no check of 60_exceptions R230 answers it, and no other rule asks for it. -/
theorem mmx_of_alignmentCheck {i : Instr} {s : State} (h : exec i s = .fault .alignmentCheck) :
    ∃ o, shapeOf i = .mmx o := by
  obtain hcheck | ⟨op, -, hread⟩ := exec_fault h
  · simp [CheckFault] at hcheck
  · have hstop := memRead_error hread
    generalize he : Stop.fault .alignmentCheck = e at hstop
    cases hstop with
    | address k _ _ =>
      simp only [badAddressFault, Stop.fault.injEq] at he
      split at he <;> cases he
    | levelSix al f accepted holds =>
      cases he
      obtain rfl | hpage := holds
      · exact mmx_of_alignmentStop_check accepted
      · obtain ⟨_, _, _, _, hf⟩ := operandPageFault_report hpage
        cases hf
    | alignment => cases he
    | region => cases he

/-! ## What an instruction reads of memory -/

theorem operandRead_withHistory {i : Instr} {s : State} {m : Memory} {ps ls : List OtherWrite} {op : Operand}
    (h : ∀ k < op.bytes, byteValue (withHistory m ps ls s) op.place op.bytes k = byteValue s op.place op.bytes k) :
    operandRead i (withHistory m ps ls s) op = operandRead i s op :=
  memRead_withHistory _ _ _ h

/-- An instruction sees memory and other processors' writes in the bytes of its operand alone; it keeps memory and lets
its own step's writes land. -/
theorem exec_withHistory {i : Instr} {s : State} {m : Memory} {ps ls : List OtherWrite}
    (bytes : ∀ op, operandOf i s = some op → ∀ k < op.bytes,
      byteValue (withHistory m ps ls s) op.place op.bytes k = byteValue s op.place op.bytes k) :
    exec i s = mapNext (withHistory s.mem (landing s).1 (landing s).2) (exec i (withHistory m ps ls s)) := by
  obtain ⟨w, ⟨run⟩⟩ := exists_running i
  have hoperand : operandOf i (withHistory m ps ls s) = operandOf i s := rfl
  have hsource : sourceOf i (withHistory m ps ls s) run.value run.register = sourceOf i s run.value run.register := by
    cases ho : operandOf i s with
    | none => rw [sourceOf_none ho, sourceOf_none (hoperand.trans ho), run.register_history]
    | some op =>
      rw [sourceOf_some ho, sourceOf_some (hoperand.trans ho), operandRead_withHistory (bytes op ho)]
  rw [run.exec_eq, run.exec_eq, run.check_history, hsource]
  exact answer_mapNext _ _ (run.result_history m ps ls s)

theorem mapNext_congr {f g : State → State} {out : Host.Outcome State Fault Refusal}
    (h : ∀ t, out = .next t → f t = g t) : mapNext f out = mapNext g out := by
  cases out with
  | next t => exact congrArg _ (h t rfl)
  | fault e => rfl
  | refused r => rfl

/-- Where two memories agree on the operand, the outcomes are the same but for memory. -/
theorem exec_withMemory {i : Instr} {s : State} {m : Memory}
    (h : ∀ op, operandOf i s = some op → ∀ k < op.bytes, ∀ a, bytePhysical s op.place k = some a →
      readByte m a = readByte s.mem a) :
    exec i { s with mem := m } = mapNext (fun t => { t with mem := m }) (exec i s) := by
  have hexec : exec i { s with mem := m } = mapNext (withHistory m (landing s).1 (landing s).2) (exec i s) :=
    exec_withHistory (s := { s with mem := m }) (m := s.mem) (ps := s.pending) (ls := s.landed) fun op ho k hk =>
      byteValue_withHistory fun a ha => seenByte_congr _ (h op ho k hk a ha).symm
  rw [hexec]
  refine mapNext_congr fun t ht => ?_
  obtain ⟨hpending, hlanded⟩ := (exec_next ht).2.history
  rw [← hpending, ← hlanded]
  rfl

/-! ## What an instruction reads of other processors' writes -/

/-- The writes of other processors that the byte at a physical address is read after: at the moment of the operand's read
where there is one, at the end of the step otherwise. -/
def operandSeen (i : Instr) (s : State) (a : Nat) : List OtherWrite :=
  match operandOf i s with
  | some op => landedSeen s op.place op.bytes a
  | none => (landing s).2

theorem operandSeen_of_operand {i : Instr} {s : State} {op : Operand} (ho : operandOf i s = some op) (a : Nat) :
    operandSeen i s a = landedSeen s op.place op.bytes a := by
  rw [operandSeen, ho]

/-- Each byte is read at a moment of the step (20_memory R93). -/
theorem operandSeen_moment (i : Instr) (s : State) (a : Nat) :
    ∃ ps', Lands s.pending s.landed ps' (operandSeen i s a) ∧
      Lands ps' (operandSeen i s a) (landing s).1 (landing s).2 := by
  cases ho : operandOf i s with
  | some op =>
    rw [operandSeen_of_operand ho]
    exact landedSeen_moment s op.place op.bytes a
  | none =>
    rw [operandSeen, ho]
    exact ⟨_, landing_lands s, .none⟩

theorem operandSeen_suffix (i : Instr) (s : State) (a : Nat) : operandSeen i s a <:+ (landing s).2 := by
  obtain ⟨_, -, h⟩ := operandSeen_moment i s a
  exact lands_suffix h

/-- On a memory that holds what each byte's read sees, the instruction answers the same without other writers. -/
theorem exec_of_memory_seen {i : Instr} {s : State} {m : Memory}
    (hm : ∀ a, readByte m a = seenByte s.mem (operandSeen i s a) a) :
    exec i s = mapNext (withHistory s.mem (landing s).1 (landing s).2) (exec i (withHistory m [] [] s)) := by
  refine exec_withHistory fun op ho k _ => byteValue_withHistory fun a _ => ?_
  calc dataByte (withHistory m [] [] s) op.place op.bytes a = readByte m a := dataByte_alone _ _ _ _ rfl
    _ = dataByte s op.place op.bytes a := by rw [hm, operandSeen_of_operand ho, dataByte]

end Sys2Proof.Machine
end

section
/-! PROOFS. A masked EVEX form whose elements in use can be read: it completes on those, or reports a fault of a byte that
no element in use has (20_memory R94). -/

namespace Sys2Proof.Machine

open Sys2Proof.Safety

/-! ## The lanes of the bytes read -/

/-- Byte `k` of the value of the bytes read is byte `k` of the operand (20_memory R84). -/
theorem bytesValue_byte {w n : Nat} (hw : 8 * n = w) (f : Nat → Byte) {k : Nat} (hk : k < n) :
    (bytesValue w ((List.range n).map f)).extractLsb' (8 * k) 8 = f k := by
  rw [bytesValue, littleEndian_byte _ w k (by simpa using hw) (by simpa using hk)]
  simp

/-- Elements of whole bytes are alike where their bytes are. -/
theorem lane_eq_of_bytes {N VL : Nat} (hN : 8 ∣ N) {a b : BitVec VL} {j : Nat}
    (h : ∀ k, k / (N / 8) = j → a.extractLsb' (8 * k) 8 = b.extractLsb' (8 * k) 8) : lane N a j = lane N b j := by
  apply BitVec.eq_of_getLsbD_eq
  intro n hn
  obtain ⟨c, rfl⟩ := hN
  have hlane : (j * (8 * c) + n) / 8 / (8 * c / 8) = j := by
    rw [Nat.div_div_eq_div_mul, Nat.mul_div_cancel_left c (by decide : 0 < 8), Nat.add_comm, Nat.mul_comm j,
      Nat.add_mul_div_left _ _ (by omega), Nat.div_eq_of_lt hn, Nat.zero_add]
  have hbit := congrArg (fun v => v.getLsbD ((j * (8 * c) + n) % 8)) (h _ hlane)
  rw [lane_getLsbD _ _ _ _ hn, lane_getLsbD _ _ _ _ hn]
  simpa [Nat.mod_lt, Nat.div_add_mod] using hbit

/-- A byte of an element is a byte of the operand. -/
theorem byte_lt_of_lane_lt {N VL k : Nat} (hN : 8 ∣ N) (hd : N ∣ VL) (h : k / (N / 8) < VL / N) : k < VL / 8 := by
  rw [← Nat.div_div_div_eq_div hN hd, Nat.div_right_comm] at h
  exact Nat.lt_of_div_lt_div h

/-- One element in every lane. -/
theorem lane_bcast (N VL : Nat) (e : BitVec N) {j : Nat} (hj : j < VL / N) : lane N (bcast N VL e) j = e :=
  lane_packLanes N VL _ _ j hj (lanes_fit N VL)

theorem evex_bytes {i : Instr} {broadcast : Bool} {o : EvexOperands} (hs : shapeOf i = .evex broadcast o) :
    8 * (vectorLength i / 8) = vectorLength i ∧ 8 * (elementBits i / 8) = elementBits i := by
  obtain ⟨hN, hd⟩ := evex_sizes hs
  exact ⟨Nat.mul_div_cancel' (hN.trans hd), Nat.mul_div_cancel' hN⟩

theorem bytes_of_evex_operand {i : Instr} {broadcast : Bool} {o : EvexOperands} {s : State} {op : Operand}
    (hs : shapeOf i = .evex broadcast o) (ho : operandOf i s = some op) :
    op.bytes = evexBytes (elementBits i) (vectorLength i) o := by
  rw [operandOf_evex hs] at ho
  obtain ⟨m, -, rfl⟩ := operandFrom_some ho
  rfl

/-- Where the bytes in use hold those of `b`, the value read has the lanes of `b` where the writemask has a lane. -/
theorem evexValue_lane {i : Instr} {broadcast : Bool} {o : EvexOperands} {s : State} {op : Operand}
    {b : BitVec (vectorLength i)} (hs : shapeOf i = .evex broadcast o) (ho : operandOf i s = some op)
    (hold : UsedBytesHold (elementBits i) (vectorLength i) i o s op b) {j : Nat}
    (hj : j < vectorLength i / elementBits i) (hactive : laneActive (readK s o.aaa) (isMasked o) j = true) :
    lane (elementBits i)
      (evexValue (elementBits i) (vectorLength i) o ((List.range op.bytes).map (byteValue s op.place op.bytes))) j =
      lane (elementBits i) b j := by
  obtain ⟨hN, hd⟩ := evex_sizes hs
  obtain ⟨hVL, hE⟩ := evex_bytes hs
  have hbytes := bytes_of_evex_operand hs ho
  have hused := byteUsed_of_evex (s := s) hs
  cases hb : o.b with
  | true =>
    simp only [evexBytes, hb, if_true] at hbytes
    simp only [UsedBytesHold, hb, if_true] at hold
    obtain ⟨e, hlanes, hbyte⟩ := hold
    have hany : anyActive (elementBits i) (vectorLength i) o s = true :=
      List.any_eq_true.2 ⟨j, List.mem_range.2 hj, hactive⟩
    have hoperand : OperandIs s op.place e := by
      intro k hk
      rw [hbytes] at hbyte
      exact hbyte k hk (by rw [hused, hb]; exact hany)
    have hvalue := operandIs_value s op.place e hE hoperand
    simp only [evexValue, hb, if_true, hbytes, bytesValue, hvalue]
    rw [lane_bcast _ _ _ hj, hlanes j hj]
  | false =>
    simp only [evexBytes, hb, Bool.false_eq_true, if_false] at hbytes
    simp only [UsedBytesHold, hb, Bool.false_eq_true, if_false] at hold
    simp only [evexValue, hb, Bool.false_eq_true, if_false]
    refine lane_eq_of_bytes hN fun k hk => ?_
    have hlt : k < op.bytes := hbytes ▸ byte_lt_of_lane_lt hN hd (hk ▸ hj)
    rw [bytesValue_byte (hbytes ▸ hVL) _ hlt]
    have hkused : byteUsed i s k = true := by
      rw [hused, hb, if_neg Bool.false_ne_true, byteActive, hk]
      exact hactive
    obtain ⟨-, -, -, hvalue⟩ := byteIs_value s op.place _ k _ (hold k hlt hkused)
    exact hvalue

/-! ## The result of an EVEX form -/

/-- The result of an EVEX form depends on the lanes of its second source that its writemask has. -/
theorem evexAfter_result {N VL : Nat} (hVL : VL ≤ 512) (o : EvexOperands) (len : Nat) {b b' : BitVec VL} (s : State)
    (h : ∀ j < VL / N, laneActive (readK s o.aaa) (isMasked o) j = true → lane N b' j = lane N b j) :
    EvexAfter N VL o len b s (evexResult N VL o len b' s) where
  lanes j hj := by
    have hactive : laneActive (readK s o.aaa) (isMasked o) j = true ↔
        o.aaa = 0 ∨ (s.k.get o.aaa).getLsbD j = true := by simp [laneActive_isMasked]
    rw [(evexResult_writes N VL hVL o len b' s).1, lane_maskMerge _ _ _ _ _ _ _ _ hj, lane_pmaxs _ _ _ _ _ hj]
    by_cases ha : laneActive (readK s o.aaa) (isMasked o) j = true
    · rw [if_pos ha, if_pos (hactive.1 ha), h j hj ha]
    · rw [if_neg ha, if_neg (fun hc => ha (hactive.2 hc))]
  zeroed := (evexResult_writes N VL hVL o len b' s).2
  pc := pcAdvanced_retire len rfl rfl
  frame := vectorFrame_retire_writeV len s o.d _

/-! ## The two ways -/

/-- A byte in use can be read. -/
theorem used_byte_readable {N VL : Nat} {i : Instr} {o : EvexOperands} {s : State} {op : Operand} {b : BitVec VL}
    (hold : UsedBytesHold N VL i o s op b) {k : Nat} (hk : k < op.bytes) (used : byteUsed i s k = true) :
    badByte s op.place k = false ∧ ∃ a, translate s (byteLinear s op.place k) = .ok a := by
  have hbyte : ∃ v, ByteIs s op.place op.bytes k v := by
    unfold UsedBytesHold at hold
    split at hold
    · obtain ⟨e, -, h⟩ := hold
      exact ⟨_, h k hk used⟩
    · exact ⟨_, hold k hk used⟩
  obtain ⟨v, hbad, a, ha, -⟩ := hbyte
  exact ⟨hbad, a, ha⟩

theorem exec_masked_twoWay {i : Instr} {broadcast : Bool} {o : EvexOperands} {s : State} {op : Operand}
    {b : BitVec (vectorLength i)} (hs : shapeOf i = .evex broadcast o) (hready : Ready i s)
    (ho : operandOf i s = some op) (hmet : AlignmentMet i s op) (ordinary : ∀ k < op.bytes, byteRegion s op.place k = none)
    (hold : UsedBytesHold (elementBits i) (vectorLength i) i o s op b) :
    (∃ t, exec i s = .next t ∧ EvexAfter (elementBits i) (vectorLength i) o i.length b s t) ∨
      (exec i s = .fault (badAddressFault op.place.seg) ∧
        ∃ k < op.bytes, byteUsed i s k = false ∧ badByte s op.place k = true) ∨
      (∃ k < op.bytes, ∃ code, byteUsed i s k = false ∧ translate s (byteLinear s op.place k) = .error code ∧
        exec i s = .fault (.pageFault code (byteLinear s op.place k))) := by
  have haccepted := alignmentStop_of_met hmet
  cases hread : operandRead i s op with
  | ok bytes =>
    obtain ⟨rfl, -⟩ := memRead_ok _ _ _ _ _ _ _ hread
    refine .inl ⟨_, ?_, evexAfter_result (vectorLength_le i) o i.length s fun j hj => evexValue_lane hs ho hold hj⟩
    rw [(runningEvex hs).exec_eq, (runningEvex hs).check_ready s hready, sourceOf_some ho, hread]
    rfl
  | error e =>
    have hexec := exec_of_operandRead_error hready ho hread
    cases memRead_error hread with
    | address k hcounted hbad =>
      have hk := countedBytes_lt _ _ _ _ k hcounted
      refine .inr (.inl ⟨hexec, k, hk, Bool.eq_false_iff.2 fun used => ?_, hbad⟩)
      simp [(used_byte_readable hold hk used).1] at hbad
    | alignment r hr => cases haccepted.symm.trans hr
    | levelSix al f hal holds =>
      cases haccepted.symm.trans hal
      obtain ⟨k, hcounted, code, hcode, rfl⟩ := operandPageFault_report (holds.resolve_left nofun)
      have hk := countedBytes_lt _ _ _ _ k hcounted
      refine .inr (.inr ⟨k, hk, code, Bool.eq_false_iff.2 fun used => ?_, hcode, hexec⟩)
      obtain ⟨-, a, hmapped⟩ := used_byte_readable hold hk used
      cases hmapped.symm.trans hcode
    | region k hk r hr => cases (ordinary k hk).symm.trans hr

theorem maskedOffTwoWay_of_shape {N VL : Nat} {broadcast : Bool} {mk : EvexOperands → Instr}
    (shape : ∀ o, shapeOf (mk o) = .evex broadcast o) (element : ∀ o, elementBits (mk o) = N)
    (width : ∀ o, vectorLength (mk o) = VL) : MaskedOffTwoWay N VL mk := by
  intro o s b op hready ho hmet ordinary hold
  obtain rfl := element o
  obtain rfl := width o
  exact exec_masked_twoWay (shape o) hready ho hmet ordinary hold

end Sys2Proof.Machine
end

section
/-! PROOFS. The statements of 20_memory settled. -/

namespace Sys2Proof.Proofs

open Sys2Proof.Machine Sys2Proof.Safety

/-- Settles O58: the least address listed by one memory is listed by the other, with the same byte. -/
theorem canonicalMemoriesAreEqual : Obligations.CanonicalMemoriesAreEqual :=
  fun _ _ hm hn h => memory_ext hm hn h

/-- Settles O60: a run only adds to what is visible; a write held by another one lands after it. -/
theorem otherWritesSeenInOrder : Obligations.OtherWritesSeenInOrder := by
  refine ⟨fun _ _ _ h p q j k a b => seen_suffix_of_run h p q j k a b, ?_, ?_⟩
  · intro ps ls ps' ls' w1 w2 hlands hids h1 h2 horder hvisible
    have hnodup : (ps ++ ls).Nodup := hids.of_map
    obtain ⟨hps, -, hdisjoint⟩ := List.nodup_append.1 hnodup
    refine lands_after ?_ hlands h1 (fun hl => hdisjoint w2 h2 w2 hl rfl) hvisible
    intro qs hsub hq
    obtain follows | ⟨writer, kind1, kind2, x, y, z, rfl⟩ := horder
    · exact mayLand_false_of_follows hq follows
    · have hne : w1 ≠ w2 := by
        rintro rfl
        simp [List.nodup_append] at hps
      exact mayLand_false_of_before hq hne (by simp [keepsOrder, writer, kind1, kind2])
        ((pairwise_of_before hps).sublist hsub)
  · intro x y ls w causal free
    refine lands_next ls causal fun u hu => Bool.eq_false_iff.2 fun order => ?_
    obtain ⟨⟨writer, kindu⟩, kindw⟩ : (u.writer = w.writer ∧ u.kind = .ordinary) ∧ w.kind = .ordinary := by
      simpa [keepsOrder] using order
    exact (free u hu writer).elim (· kindu) (· kindw)

/-- Settles O13: a form writes its destination and retires. -/
theorem everyFormKeepsTheRest : Obligations.EveryFormKeepsTheRest := by
  intro i s t h
  refine ⟨exec_frame h, ?_⟩
  cases (exec_next h).2 with
  | mmx o hs b =>
    have hafter := mmxAfter_result o i.length b s
    rw [hs]
    exact ⟨hafter.vectors, hafter.others⟩
  | sse o hs b =>
    have hframe := (sseAfter_result (elementBits i) o i.length b s).frame
    rw [hs]
    exact ⟨hframe.x87, hframe.others⟩
  | vex o hs b =>
    have hframe := (vexAfter_result (elementBits i) _ (vectorLength_le i) o i.length b s).frame
    rw [hs]
    exact ⟨hframe.x87, hframe.others⟩
  | evex broadcast o hs b =>
    have hframe := (evexAfter_result (vectorLength_le i) o i.length s fun _ _ _ => rfl :
      EvexAfter (elementBits i) (vectorLength i) o i.length b s _).frame
    rw [hs]
    exact ⟨hframe.x87, hframe.others⟩

/-- Settles O15: memory is read in the bytes of the operand alone. -/
theorem memoryReadOnlyAtOperand : Obligations.MemoryReadOnlyAtOperand :=
  fun _ _ _ h => exec_withMemory h

/-- Settles O32: a byte with unequal upper bits is not canonical, and its fault comes first. -/
theorem nonCanonicalOperandFaults : Obligations.NonCanonicalOperandFaults := by
  intro i s op k n hmode hready ho hk used hlow hn hne
  have hbad : badByte s op.place k = true := by
    have hcanonical : canonical (linearBits s) (byteLinear s op.place k) = false :=
      canonical_false_of_bit_ne hlow hn hne
    rw [badByte_long64 hmode, hcanonical]
    rfl
  exact ⟨exec_badAddress hready ho hk used hbad, stateAtFault_badAddress op.place.seg s⟩

/-- Settles O33: the three violations are those of the `Prot32` segment checks, whose fault comes first. -/
theorem segmentViolationFaults : Obligations.SegmentViolationFaults := by
  intro i s op k hmode hready ho hk used hviolation
  refine exec_badAddress hready ho hk used ?_
  rw [badByte_prot32 hmode, segmentViolation_iff]
  obtain h | h | h := hviolation
  · exact .inr (.inr h)
  · exact .inr (.inl h)
  · exact .inl h

/-- Settles O34: with good addresses the alignment of rows 2 to 4 decides, and the segment's base is asked first. -/
theorem misalignedLegacyOperandFaults : Obligations.MisalignedLegacyOperandFaults := by
  intro i o s op hs hready ho good
  have hrule : alignRuleOf i = .sixteen := by rw [alignRuleOf, hs]
  constructor
  · intro hbase haddr mapped
    have hstop : alignmentStop s op.place op.bytes (alignRuleOf i) = .ok (some .generalProtection) := by
      rw [hrule]
      exact alignmentStop_sixteen_unaligned hbase haddr
    exact ⟨exec_of_operandRead_error hready ho (memRead_alignmentFault good hstop mapped), rfl⟩
  · intro hbase
    have hstop : alignmentStop s op.place op.bytes (alignRuleOf i) = .error .unalignedSegmentBase := by
      rw [hrule]
      exact if_pos hbase
    exact exec_of_operandRead_error hready ho (memRead_alignmentRefused good hstop)

/-- Settles O35: alignment checking stops row 1 with its fault, VEX and EVEX with the refusal, rows 2 to 4 not at all. -/
theorem alignmentCheckOnRowOne : Obligations.AlignmentCheckOnRowOne := by
  constructor
  · intro i s op hready ho good ham hac hcpl haddr
    have hcheck := alignCheckEnabled_of_bits ham hac hcpl
    cases hs : shapeOf i with
    | mmx o =>
      intro mapped
      have hbytes : op.bytes = 8 := bytes_of_mmx_operand hs ho
      have hstop : alignmentStop s op.place op.bytes (alignRuleOf i) = .ok (some .alignmentCheck) := by
        rw [alignRuleOf, hs]
        exact alignmentStop_eight_unaligned hcheck (hbytes ▸ haddr)
      exact exec_of_operandRead_error hready ho (memRead_alignmentFault good hstop mapped)
    | sse o => trivial
    | vex o =>
      have hrule : alignRuleOf i = .free := by rw [alignRuleOf, hs]
      exact exec_vectorAlignmentCheck hready ho good hrule hcheck haddr
    | evex broadcast o =>
      have hrule : alignRuleOf i = .free := by rw [alignRuleOf, hs]
      exact exec_vectorAlignmentCheck hready ho good hrule hcheck haddr
  · intro i s hother h
    obtain ⟨o, hs⟩ := mmx_of_alignmentCheck h
    cases i <;> cases hs
    exact hother o rfl

/-- Settles O36: the page fault of some counted byte is reported, whichever is chosen. -/
theorem pageFaultReportsOperandByte : Obligations.PageFaultReportsOperandByte := by
  intro i s op k hready ho hmet good hk used unmapped
  obtain ⟨j, hj, code, hcode, hread⟩ :=
    memRead_pageFault good (alignmentStop_of_met hmet) (mem_counted_of_used hk used) unmapped
  exact ⟨j, hj, code, hcode, exec_of_operandRead_error hready ho hread, translate_error_bits hcode⟩

/-- Settles O38: the twelve rows of the EVEX layout differ in element size, vector length and own length. -/
theorem maskedOffFaultsTwoWay : Obligations.MaskedOffFaultsTwoWay := by
  refine ⟨?_, ?_, ?_, ?_, ?_, ?_, ?_, ?_, ?_, ?_, ?_, ?_⟩ <;>
    exact maskedOffTwoWay_of_shape (fun _ => rfl) (fun _ => rfl) fun _ => rfl

/-- Settles O39: with nothing else to stop the read, it is refused for a region that some byte lies in. -/
theorem deviceOperandRefused : Obligations.DeviceOperandRefused := by
  intro i s op hready ho hmet readable lies
  obtain ⟨k, hk, r, hr, hread⟩ :=
    memRead_region (fun k hk => (readable k hk).1) (alignmentStop_of_met hmet) (fun k hk => (readable k hk).2) lies
  exact ⟨k, hk, r, hr, exec_of_operandRead_error hready ho hread⟩

/-- Settles O59: one memory holds what each byte's read sees. -/
theorem otherWritersBytesAreWritten : Obligations.OtherWritersBytesAreWritten := by
  intro i s
  obtain ⟨m, hm⟩ := exists_memory_seen s.mem (landing s).2 (operandSeen i s) (operandSeen_suffix i s)
  refine ⟨m, (landing s).1, (landing s).2, landing_lands s, fun a => ?_, fun op ho hn aligned consecutive => ?_,
    exec_of_memory_seen hm⟩
  · obtain ⟨ps', hfrom, hto⟩ := operandSeen_moment i s a
    exact ⟨ps', _, hfrom, hto, hm a⟩
  · have hatomic := atomicRead_of_aligned hn aligned consecutive
    obtain ⟨ps', hfrom, hto⟩ := landedSeen_moment s op.place op.bytes 0
    refine ⟨ps', _, hfrom, hto, fun k _ a _ => ?_⟩
    rw [hm, operandSeen_of_operand ho, landedSeen_atomic s op.place op.bytes a 0 hatomic]

end Sys2Proof.Proofs
end

section
/-! PROOFS. The decoder on the encoder's bytes: each part of 30_encoding R147 reads back what was written, whatever
bytes follow. -/

namespace Sys2Proof

open Sys2Proof.Safety

/-! ## Register numbers -/

theorem reg4_of_bits : ∀ r : Fin 16, reg4 (ext3 r) (lowBits r) = r := by decide

theorem reg5_of_bits : ∀ r : Fin 32, reg5 (ext4 r) (ext3 r) (lowBits r) = r := by decide

theorem toFin_lowBits : ∀ r : Fin 8, (lowBits r).toFin = r := by decide

/-- A register number below 8 has no extension bits. -/
theorem ext_of_lt_eight {n : Nat} {r : Fin n} (h : r.val < 8) : ext3 r = false ∧ ext4 r = false :=
  ⟨Nat.testBit_lt_two_pow h, Nat.testBit_lt_two_pow (h.trans (by decide))⟩

/-- The low bits read are those of the number. -/
theorem lowBits_eq_iff {n : Nat} (r : Fin n) (v : BitVec 3) : lowBits r = v ↔ r.val % 8 = v.toNat := by
  rw [← BitVec.toNat_inj, lowBits, BitVec.toNat_ofNat]

/-- The extension bit of an index register; 0 without one. -/
def indexExt : Option (Fin 16) → Bool
  | none => false
  | some i => ext3 i

theorem xExt_sib {n : Nat} (scale : Fin 4) (index : Option (Fin 16)) (r : Fin 16) (d : Disp) :
    (Source.mem (.sib scale index r d) : Source n).xExt = indexExt index := by
  cases index <;> rfl

theorem xExt_sibNoBase {n : Nat} (scale : Fin 4) (index : Option (Fin 16)) (d : BitVec 32) :
    (Source.mem (.sibNoBase scale index d) : Source n).xExt = indexExt index := by
  cases index <;> rfl

theorem indexExt_of_low {i : Option (Fin 16)} (h : lowIndex i = true) : indexExt i = false := by
  cases i with
  | none => rfl
  | some i => exact (ext_of_lt_eight (of_decide_eq_true h)).1

/-- A source without registers above 7 has no extension bits. -/
theorem Source.ext_of_low {n : Nat} {src : Source n} (h : src.low = true) : src.bExt = false ∧ src.xExt = false := by
  match src, h with
  | .reg r, h => exact ext_of_lt_eight (of_decide_eq_true h)
  | .mem (.base r d), h => exact ⟨(ext_of_lt_eight (of_decide_eq_true h)).1, rfl⟩
  | .mem (.sib scale i r d), h =>
    obtain ⟨hi, hr⟩ := Bool.and_eq_true_iff.1 h
    exact ⟨(ext_of_lt_eight (of_decide_eq_true hr)).1, (xExt_sib scale i r d).trans (indexExt_of_low hi)⟩
  | .mem (.sibNoBase scale i d), h => exact ⟨rfl, (xExt_sibNoBase scale i d).trans (indexExt_of_low h)⟩
  | .mem (.pcRelative d), _ => exact ⟨rfl, rfl⟩
  | .mem (.absolute d), _ => exact ⟨rfl, rfl⟩

/-! ## Displacement, memory operand and ModRM -/

theorem take32_encode32 (d : BitVec 32) (rest : List Byte) : take32 (encode32 d ++ rest) = .ok (d, rest) := by
  have hd : d.extractLsb' 24 8 ++ d.extractLsb' 16 8 ++ d.extractLsb' 8 8 ++ d.extractLsb' 0 8 = d := by
    have join := @BitVec.extractLsb'_append_extractLsb'_eq_extractLsb' 32
    rw [@join 24 16 8 8 d rfl, @join 16 8 8 16 d rfl]
    exact BitVec.extractLsb'_append_extractLsb' (w := 24) (len := 8)
  simp [take32, encode32, hd]

theorem takeDisp_encode (d : Disp) (rest : List Byte) : takeDisp d.mod (d.encode ++ rest) = .ok (d, rest) := by
  cases d with
  | none => rfl
  | disp8 b => rfl
  | disp32 d => simp [takeDisp, Disp.mod, Disp.encode, take32_encode32]

/-- The fields of a byte made of two, three and three bits (R133, R135). -/
theorem fields_of_byte {a : BitVec 2} {b c : BitVec 3} {byte : Byte} (h : byte = a ++ b ++ c) :
    byte.extractLsb' 6 2 = a ∧ byte.extractLsb' 3 3 = b ∧ byte.extractLsb' 0 3 = c := by
  subst h
  exact ⟨(BitVec.extractLsb'_append_eq_of_le (by decide)).trans BitVec.extractLsb'_append_eq_left,
    (BitVec.extractLsb'_append_eq_of_le (by decide)).trans BitVec.extractLsb'_append_eq_right,
    BitVec.extractLsb'_append_eq_right⟩

theorem Disp.mod_ne_three (d : Disp) : d.mod ≠ 3 := by cases d <;> nofun

/-- With `mod = 00b` a base register has other low bits than `101b`, which are another shape (R134, R135). -/
theorem not_noBase {r : Fin 16} {d : Disp} (h : baseNeedsDisp r d = true) : ¬(d.mod = 0 ∧ lowBits r = 5) := by
  rintro ⟨hmod, hlow⟩
  cases d with
  | none => simp [baseNeedsDisp, (lowBits_eq_iff r 5).1 hlow] at h
  | disp8 b => cases hmod
  | disp32 d => cases hmod

/-- The SIB byte read back: scale, index and base bits (R135). -/
theorem encodeSib_fields (scale : Fin 4) {index : Option (Fin 16)} (bs : BitVec 3) (h : index ≠ some 4) :
    ((encodeSib scale index bs).extractLsb' 6 2).toFin = scale ∧
      sibIndex (indexExt index) ((encodeSib scale index bs).extractLsb' 3 3) = index ∧
      (encodeSib scale index bs).extractLsb' 0 3 = bs := by
  obtain ⟨hscale, hindex, hbase⟩ := fields_of_byte (byte := encodeSib scale index bs) rfl
  refine ⟨?_, ?_, hbase⟩
  · rw [hscale]
    exact Fin.ext (Nat.mod_eq_of_lt scale.isLt)
  · rw [hindex]
    cases index with
    | none => rfl
    | some i =>
      have hi : i ≠ 4 := fun e => h (congrArg some e)
      have hread : sibIndex (ext3 i) (lowBits i) = some i := by rw [sibIndex, reg4_of_bits, if_neg hi]
      exact hread

/-- A memory operand of a shape the mode has is read back from `mod`, `rm`, its extension bits and its bytes (R134). -/
theorem takeMem_encode {n : Nat} {mode : Mode} {m : MemOperand} (h : m.shaped mode = true) (rest : List Byte) :
    takeMem mode (Source.mem m : Source n).bExt (Source.mem m : Source n).xExt m.encode.1 m.encode.2.1
      (m.encode.2.2 ++ rest) = .ok (m, rest) := by
  cases m with
  | base r d =>
    obtain ⟨hsib, hdisp⟩ : r.val % 8 ≠ 4 ∧ baseNeedsDisp r d = true := by simpa [MemOperand.shaped] using h
    have hrm : lowBits r ≠ 4 := fun e => hsib ((lowBits_eq_iff r 4).1 e)
    simp only [takeMem, MemOperand.encode, Source.bExt, if_neg hrm, if_neg (not_noBase hdisp), takeDisp_encode,
      reg4_of_bits]
  | sib scale index r d =>
    obtain ⟨hindex, hdisp⟩ : index ≠ some 4 ∧ baseNeedsDisp r d = true := by simpa [MemOperand.shaped] using h
    obtain ⟨hs, hi, hb⟩ := encodeSib_fields scale (lowBits r) hindex
    simp only [takeMem, MemOperand.encode, Source.bExt, xExt_sib, List.cons_append, if_true, hs, hi, hb,
      if_neg (not_noBase hdisp), takeDisp_encode, reg4_of_bits]
  | sibNoBase scale index d =>
    have hindex : index ≠ some 4 := by simpa [MemOperand.shaped] using h
    obtain ⟨hs, hi, hb⟩ := encodeSib_fields scale 5 hindex
    simp only [takeMem, MemOperand.encode, xExt_sibNoBase, List.cons_append, if_true, hs, hi, hb, and_self,
      take32_encode32]
  | pcRelative d =>
    obtain rfl : mode = .long64 := by simpa [MemOperand.shaped] using h
    simp [takeMem, MemOperand.encode, take32_encode32]
  | absolute d =>
    obtain rfl : mode = .prot32 := by simpa [MemOperand.shaped] using h
    simp [takeMem, MemOperand.encode, take32_encode32]

theorem MemOperand.encode_mod_ne_three (m : MemOperand) : m.encode.1 ≠ 3 := by
  cases m with
  | base r d => exact d.mod_ne_three
  | sib scale index r d => exact d.mod_ne_three
  | sibNoBase scale index d => nofun
  | pcRelative d => nofun
  | absolute d => nofun

/-- ModRM and what follows it: the destination's low bits and the second source (R133). -/
theorem takeModRM_encode {n : Nat} {mode : Mode} {regOf : BitVec 3 → Fin n} (reg : BitVec 3) {src : Source n}
    (hreg : ∀ r, src = .reg r → regOf (lowBits r) = r) (hmem : ∀ m, src = .mem m → m.shaped mode = true)
    (rest : List Byte) :
    takeModRM mode src.bExt src.xExt regOf (src.encode reg ++ rest) = .ok (reg, src, rest) := by
  cases src with
  | reg r =>
    obtain ⟨hmod, hfield, hrm⟩ := fields_of_byte (byte := 3#2 ++ reg ++ lowBits r) rfl
    simp only [Source.encode, takeModRM, List.cons_append, List.nil_append, hmod, hfield, hrm, hreg r rfl]
    exact if_pos rfl
  | mem m =>
    obtain ⟨hmod, hfield, hrm⟩ := fields_of_byte (byte := m.encode.1 ++ reg ++ m.encode.2.1) rfl
    simp only [Source.encode, takeModRM, List.cons_append, hmod, hfield, hrm, if_neg m.encode_mod_ne_three,
      takeMem_encode (hmem m rfl)]

/-! ## Prefixes and REX -/

/-- A byte that is none of the legacy prefixes ends them, whatever stands before it (R111). -/
theorem addPrefix_none (p : Prefixes) {b : Byte} (h : b ∉ prefixBytes) : addPrefix p b = none := by
  simp only [prefixBytes, overrideBytes, List.cons_append, List.nil_append, List.mem_cons, List.not_mem_nil, or_false,
    not_or] at h
  obtain ⟨hF0, hF2, hF3, h66, h67, h26, h2E, h36, h3E, h64, h65⟩ := h
  simp only [addPrefix, segmentOverride, *, if_false]

theorem scanPrefixes_stop (p : Prefixes) {b : Byte} (h : b ∉ prefixBytes) (rest : List Byte) :
    scanPrefixes p (b :: rest) = .ok (p, b :: rest) := by
  rw [scanPrefixes, addPrefix_none p h]

theorem scanPrefixes_cons {p p' : Prefixes} {b : Byte} (h : addPrefix p b = some (.ok p')) (rest : List Byte) :
    scanPrefixes p (b :: rest) = scanPrefixes p' rest := by
  rw [scanPrefixes, h]

/-- A flag's byte, written or not, sets the flag or leaves it. -/
theorem scanPrefixes_flagByte {f : Bool → Prefixes} {b : Byte} (h : addPrefix (f false) b = some (.ok (f true)))
    (on : Bool) (rest : List Byte) : scanPrefixes (f false) (flagByte on b ++ rest) = scanPrefixes (f on) rest := by
  cases on with
  | false => rfl
  | true => exact scanPrefixes_cons h rest

theorem scanPrefixes_segmentByte {p : Prefixes} (h : p.seg = none) (seg : Option SegName) (rest : List Byte) :
    scanPrefixes p ((seg.map segmentByte).toList ++ rest) = scanPrefixes { p with seg := seg } rest := by
  obtain ⟨lock, repne, rep, opsize, addrsize, _, rex⟩ := p
  obtain rfl : _ = none := h
  cases seg with
  | none => rfl
  | some g => cases g <;> exact scanPrefixes_cons rfl rest

/-- The prefixes before REX are read back, flag by flag in the encoder's order (R147, step 1). -/
theorem scanPrefixes_encode (p : Prefixes) (wrxb : BitVec 4) (rest : List Byte) :
    scanPrefixes noPrefixes (encodePrefixes p wrxb ++ rest) =
      scanPrefixes { p with rex := false } (flagByte p.rex (4#4 ++ wrxb) ++ rest) := by
  simp only [encodePrefixes, List.append_assoc]
  exact (scanPrefixes_flagByte (f := fun on => ⟨on, false, false, false, false, none, false⟩) rfl _ _).trans <|
    (scanPrefixes_flagByte (f := fun on => ⟨p.lock, on, false, false, false, none, false⟩) rfl _ _).trans <|
    (scanPrefixes_flagByte (f := fun on => ⟨p.lock, p.repne, on, false, false, none, false⟩) rfl _ _).trans <|
    (scanPrefixes_flagByte (f := fun on => ⟨p.lock, p.repne, p.rep, on, false, none, false⟩) rfl _ _).trans <|
    (scanPrefixes_flagByte (f := fun on => ⟨p.lock, p.repne, p.rep, p.opsize, on, none, false⟩) rfl _ _).trans <|
    scanPrefixes_segmentByte rfl _ _

/-- The first byte of a layout is none of the legacy prefixes, and no REX. -/
theorem opensLayout_cases {c : Byte} (h : opensLayout c = true) : c ∉ prefixBytes ∧ isRex c = false := by
  simp only [opensLayout, Bool.or_eq_true, beq_iff_eq] at h
  obtain ((rfl | rfl) | rfl) | rfl := h <;> decide

/-- A REX byte is none of the legacy prefixes. -/
theorem rex_byte : ∀ wrxb : BitVec 4, (4#4 ++ wrxb : Byte) ∉ prefixBytes ∧ isRex (4#4 ++ wrxb) = true := by decide

/-- REX, if it stands, and the layout's first byte end the legacy prefixes. -/
theorem scanPrefixes_rex (p : Prefixes) (on : Bool) (wrxb : BitVec 4) {c : Byte} (h : opensLayout c = true)
    (rest : List Byte) :
    scanPrefixes p (flagByte on (4#4 ++ wrxb) ++ c :: rest) = .ok (p, flagByte on (4#4 ++ wrxb) ++ c :: rest) := by
  cases on with
  | false => exact scanPrefixes_stop p (opensLayout_cases h).1 rest
  | true => exact scanPrefixes_stop p (rex_byte wrxb).1 (c :: rest)

/-- The REX byte that stands before a layout, if one does. -/
def rexByte (on : Bool) (wrxb : BitVec 4) : Option Byte :=
  if on then some (4#4 ++ wrxb) else none

@[simp] theorem rexByte_isSome (on : Bool) (wrxb : BitVec 4) : (rexByte on wrxb).isSome = on := by cases on <;> rfl

theorem splitRex_flagByte {mode : Mode} {on : Bool} (hon : on = true → mode = .long64) (wrxb : BitVec 4) {c : Byte}
    (h : opensLayout c = true) (rest : List Byte) :
    splitRex mode (flagByte on (4#4 ++ wrxb) ++ c :: rest) = .ok (rexByte on wrxb, c :: rest) := by
  cases on with
  | false => simp [splitRex, flagByte, rexByte, (opensLayout_cases h).2]
  | true =>
    obtain rfl := hon rfl
    simp only [splitRex, flagByte, rexByte, if_true, List.cons_append, List.nil_append, (rex_byte wrxb).2, and_self, h]

/-- The three parts of the decoder before the layout. -/
theorem decodeAny_of_parts {mode : Mode} {p : Prefixes} {bytes rest rest' : List Byte} {rex : Option Byte}
    (hscan : scanPrefixes noPrefixes bytes = .ok (p, rest)) (hpolicy : prefixPolicy mode p = none)
    (hrex : splitRex mode rest = .ok (rex, rest')) :
    decodeAny mode bytes = takeLayout mode { p with rex := rex.isSome } rex rest' := by
  simp only [decodeAny, hscan, hpolicy, hrex]

theorem prefixPolicy_none_iff (mode : Mode) (p : Prefixes) :
    prefixPolicy mode p = none ↔ overrideAdmitted mode p.seg = true ∧ ¬(mode = .prot32 ∧ p.addrsize = true) := by
  cases ho : overrideAdmitted mode p.seg <;> simp [prefixPolicy, ho]

/-- Well-formed prefixes are not refused (R137, R138). -/
theorem prefixPolicy_of_wf {mode : Mode} {p : Prefixes} (h : p.wf mode = true) :
    prefixPolicy mode { p with rex := false } = none := by
  rw [prefixPolicy_none_iff]
  cases mode with
  | long64 =>
    have hseg : (p.seg = none ∨ p.seg = some .fs) ∨ p.seg = some .gs := by simpa [Prefixes.wf] using h
    refine ⟨?_, nofun⟩
    obtain (hs | hs) | hs := hseg <;> rw [hs] <;> rfl
  | prot32 =>
    obtain ⟨-, haddr⟩ : p.rex = false ∧ p.addrsize = false := by simpa [Prefixes.wf] using h
    refine ⟨?_, by simp [haddr]⟩
    match p.seg with
    | none => rfl
    | some g => cases g <;> rfl
  | _ => cases h

/-- REX is `Long64`'s alone (R113). -/
theorem long64_of_rex {mode : Mode} {p : Prefixes} (h : p.wf mode = true) (hrex : p.rex = true) : mode = .long64 := by
  cases mode with
  | long64 => rfl
  | prot32 => simp [Prefixes.wf, hrex] at h
  | _ => cases h

/-- Behind well-formed prefixes the decoder goes on to the layout. -/
theorem decodeAny_encodePrefixes {mode : Mode} {p : Prefixes} (h : p.wf mode = true) (wrxb : BitVec 4) {c : Byte}
    (hc : opensLayout c = true) (rest : List Byte) :
    decodeAny mode (encodePrefixes p wrxb ++ c :: rest) = takeLayout mode p (rexByte p.rex wrxb) (c :: rest) := by
  have hscan := (scanPrefixes_encode p wrxb (c :: rest)).trans (scanPrefixes_rex _ p.rex wrxb hc rest)
  rw [decodeAny_of_parts hscan (prefixPolicy_of_wf h) (splitRex_flagByte (long64_of_rex h) wrxb hc rest),
    rexByte_isSome]

/-! ## Layouts -/

/-- The bits of REX as a legacy form writes them (R113); without REX they are 0, as are the bits it would have. -/
theorem rexBit_rexByte {on r x b : Bool} (h : on = false → r = false ∧ x = false ∧ b = false) :
    rexBit (rexByte on (0#1 ++ bit1 r ++ bit1 x ++ bit1 b)) 2 = r ∧
      rexBit (rexByte on (0#1 ++ bit1 r ++ bit1 x ++ bit1 b)) 1 = x ∧
      rexBit (rexByte on (0#1 ++ bit1 r ++ bit1 x ++ bit1 b)) 0 = b := by
  cases on with
  | false =>
    obtain ⟨rfl, rfl, rfl⟩ := h rfl
    exact ⟨rfl, rfl, rfl⟩
  | true => revert r x b; decide

/-- What a well-formed second source has: a shape of the mode, and extension bits only where the layout has them. -/
theorem Source.parts_of_wf {n : Nat} {mode : Mode} {ext : Bool} {src : Source n} (h : src.wf mode ext = true) :
    (∀ m, src = .mem m → m.shaped mode = true) ∧ (ext = false → src.bExt = false ∧ src.xExt = false) := by
  obtain ⟨hshape, hlow⟩ := Bool.and_eq_true_iff.1 h
  constructor
  · rintro m rfl
    exact hshape
  · rintro rfl
    exact Source.ext_of_low hlow

/-! ### The legacy layout -/

theorem takeMmx_encode {mode : Mode} {o : MmxOperands} (h : o.wf mode = true) (rest : List Byte) :
    takeMmx mode o.pfx (rexByte o.pfx.rex (0#1 ++ bit1 false ++ bit1 o.src.xExt ++ bit1 o.src.bExt))
      (o.src.encode (lowBits o.d) ++ rest) = .ok (.pmaxswMmx o, rest) := by
  obtain ⟨pfx, d, src⟩ := o
  have hsrc : (∀ m, src = .mem m → m.shaped mode = true) ∧
      (pfx.rex = false → src.bExt = false ∧ src.xExt = false) := by
    cases src with
    | reg r => exact ⟨nofun, fun _ => ext_of_lt_eight r.isLt⟩
    | mem m => exact Source.parts_of_wf (Bool.and_eq_true_iff.1 h).2
  obtain ⟨hshaped, hext⟩ := hsrc
  obtain ⟨-, hx, hb⟩ := rexBit_rexByte (r := false) fun hrex => ⟨rfl, (hext hrex).2, (hext hrex).1⟩
  simp only [takeMmx, hx, hb, takeModRM_encode _ (fun r _ => toFin_lowBits r) hshaped, toFin_lowBits]

theorem takeSse_encode {mode : Mode} {o : SseOperands} (h : o.wf mode = true) (ctor : SseOperands → Instr)
    (rest : List Byte) :
    takeSse mode o.pfx (rexByte o.pfx.rex (0#1 ++ bit1 (ext3 o.d) ++ bit1 o.src.xExt ++ bit1 o.src.bExt)) ctor
      (o.src.encode (lowBits o.d) ++ rest) = .ok (ctor o, rest) := by
  obtain ⟨pfx, d, src⟩ := o
  obtain ⟨hd, hsrc⟩ : (pfx.rex = true ∨ d.val < 8) ∧ src.wf mode pfx.rex = true := by
    simp only [SseOperands.wf, Bool.and_eq_true, Bool.or_eq_true, decide_eq_true_eq] at h
    obtain ⟨⟨-, hd⟩, hsrc⟩ := h
    exact ⟨hd, hsrc⟩
  obtain ⟨hshaped, hext⟩ := Source.parts_of_wf hsrc
  obtain ⟨hr, hx, hb⟩ := rexBit_rexByte (r := ext3 d) fun hrex =>
    ⟨(ext_of_lt_eight (hd.resolve_left (by simp [hrex]))).1, (hext hrex).2, (hext hrex).1⟩
  have hreg : ∀ r, src = .reg r → reg4 src.bExt (lowBits r) = r := by
    rintro r rfl
    exact reg4_of_bits r
  simp only [takeSse, hr, hx, hb, takeModRM_encode _ hreg hshaped, reg4_of_bits]

/-- A legacy row read back: `three` says that its opcode is in map `0F 38` (R114, R116). -/
theorem takeLegacyRow_of_row {mode : Mode} {p : Prefixes} {opsize : Bool} (h : p.legacy opsize = true)
    {rex : Option Byte} {three : Bool} {op : Byte} {row : Option (SseOperands → Instr)}
    (hrow : legacyRow three opsize op = some row) (rest : List Byte) :
    takeLegacyRow mode p rex three op rest =
      row.elim (takeMmx mode p rex rest) fun ctor => takeSse mode p rex ctor rest := by
  obtain ⟨⟨hopsize, hrepne⟩, hrep⟩ : (p.opsize = opsize ∧ p.repne = false) ∧ p.rep = false := by
    simpa [Prefixes.legacy] using h
  simp only [takeLegacyRow, hopsize, hrow, hrepne, hrep, Bool.or_self, Bool.false_eq_true, if_false]
  cases row <;> rfl

theorem decodeAny_encodeMmx {mode : Mode} {o : MmxOperands} (h : o.wf mode = true) (rest : List Byte) :
    decodeAny mode (encode (.pmaxswMmx o) ++ rest) = .ok (.pmaxswMmx o, rest) := by
  obtain ⟨⟨hpfx, hlegacy⟩, -⟩ : (o.pfx.wf mode = true ∧ o.pfx.legacy false = true) ∧ _ := by
    simpa only [MmxOperands.wf, Bool.and_eq_true] using h
  simp only [encode, encodeLegacy, List.append_assoc, List.cons_append, List.nil_append]
  rw [decodeAny_encodePrefixes hpfx _ rfl]
  have hrow : legacyRow false false 0xEE = some none := rfl
  exact (takeLegacyRow_of_row hlegacy hrow _).trans (takeMmx_encode h rest)

theorem decodeAny_encodeSse {mode : Mode} {o : SseOperands} (h : o.wf mode = true) {three : Bool} {op : Byte}
    {opcode : List Byte} {ctor : SseOperands → Instr} (hrow : legacyRow three true op = some (some ctor))
    (hop : ∀ rex bytes, takeLegacy mode o.pfx rex (opcode ++ bytes) = takeLegacyRow mode o.pfx rex three op bytes)
    (rest : List Byte) :
    decodeAny mode (encodeLegacy o.pfx (ext3 o.d) (0x0F :: opcode) (lowBits o.d) o.src ++ rest) =
      .ok (ctor o, rest) := by
  obtain ⟨⟨⟨hpfx, hlegacy⟩, -⟩, -⟩ : ((o.pfx.wf mode = true ∧ o.pfx.legacy true = true) ∧ _) ∧ _ := by
    simpa only [SseOperands.wf, Bool.and_eq_true] using h
  simp only [encodeLegacy, List.append_assoc, List.cons_append]
  rw [decodeAny_encodePrefixes hpfx _ rfl]
  exact (hop _ _).trans ((takeLegacyRow_of_row hlegacy hrow _).trans (takeSse_encode h ctor rest))

/-! ### The VEX layout -/

/-- A stored, inverted register number of four bits (R120). -/
theorem toFin_not_not (r : Fin 16) : (~~~(~~~(BitVec.ofNat 4 r.val))).toFin = r := by
  rw [BitVec.not_not]
  exact Fin.ext (Nat.mod_eq_of_lt r.isLt)

/-- The operands of a VEX form read back; a layout without `X` and `B` gives both as 0. -/
theorem takeVex_encode {mode : Mode} {short : Bool} {o : VexOperands} (h : o.wf mode short = true)
    (ctor : VexOperands → Instr) (rest : List Byte) :
    takeVex mode o.pfx (ext3 o.d) o.src.xExt o.src.bExt (~~~(BitVec.ofNat 4 o.s1.val)) ctor
      (o.src.encode (lowBits o.d) ++ rest) = .ok (ctor o, rest) := by
  obtain ⟨pfx, d, s1, src⟩ := o
  obtain ⟨hshaped, -⟩ := Source.parts_of_wf (Bool.and_eq_true_iff.1 h).2
  have hreg : ∀ r, src = .reg r → reg4 src.bExt (lowBits r) = r := by
    rintro r rfl
    exact reg4_of_bits r
  simp only [takeVex, takeModRM_encode _ hreg hshaped, reg4_of_bits, toFin_not_not]

/-- What `Prot32` asks of a VEX or EVEX form's registers (R121, R127). -/
theorem VexOperands.parts_of_wf {mode : Mode} {short : Bool} {o : VexOperands} (h : o.wf mode short = true) :
    o.pfx.wf mode = true ∧ (mode = .prot32 → o.d.val < 8 ∧ o.s1.val < 8) ∧
      (mode = .prot32 ∨ short = true → o.src.bExt = false ∧ o.src.xExt = false) := by
  simp only [VexOperands.wf, Bool.and_eq_true, Bool.or_eq_true, decide_eq_true_eq, beq_iff_eq] at h
  obtain ⟨⟨hpfx, hregs⟩, hsrc⟩ := h
  refine ⟨hpfx, fun hm => hregs.resolve_left (by simp [hm]), fun hm => (Source.parts_of_wf hsrc).2 ?_⟩
  obtain rfl | rfl := hm
  · rfl
  · simp

/-- The fields of the first payload byte of VEX3 (R118, R120). -/
theorem vex3_first_fields {r x b : Bool} {map : BitVec 5} {byte : Byte}
    (h : byte = bit1 (!r) ++ bit1 (!x) ++ bit1 (!b) ++ map) :
    byte.getLsbD 7 = !r ∧ byte.getLsbD 6 = !x ∧ byte.getLsbD 5 = !b ∧ byte.extractLsb' 0 5 = map ∧
      (r = false ∧ x = false → byte.extractLsb' 6 2 = 3) := by
  subst h
  revert r x b map
  decide

/-- The fields of the second payload byte of VEX3 (R118, R120). -/
theorem vex3_second_fields {vn : BitVec 4} {l : Bool} {byte : Byte} (h : byte = 0#1 ++ vn ++ bit1 l ++ 1#2) :
    byte.getLsbD 6 = vn.getLsbD 3 ∧ byte.extractLsb' 3 4 = vn ∧ byte.getLsbD 2 = l ∧ byte.extractLsb' 0 2 = 1 := by
  subst h
  revert vn l
  decide

/-- The fields of the payload byte of VEX2 (R119). -/
theorem vex2_fields {r : Bool} {vn : BitVec 4} {l : Bool} {byte : Byte} (h : byte = bit1 (!r) ++ vn ++ bit1 l ++ 1#2) :
    byte.getLsbD 7 = !r ∧ byte.extractLsb' 3 4 = vn ∧ byte.getLsbD 2 = l ∧ byte.extractLsb' 0 2 = 1 ∧
      (r = false ∧ vn.getLsbD 3 = true → byte.extractLsb' 6 2 = 3) := by
  subst h
  revert r vn l
  decide

/-- The top bit of a stored register number is set below 8 (R120). -/
theorem top_of_not {r : Fin 16} (h : r.val < 8) : (~~~(BitVec.ofNat 4 r.val)).getLsbD 3 = true := by
  revert r
  decide

/-- VEX3 before a row of the family, with none of the bits that `Prot32` does not have (R118, R121). -/
theorem takeVex3_of_row {mode : Mode} {p : Prefixes} {b1 b2 op : Byte} {ctor : VexOperands → Instr}
    (hpp : b2.extractLsb' 0 2 = 1) (hrow : vexRow (b1.extractLsb' 0 5) (b2.getLsbD 2) op = some ctor)
    (hprot : mode = .prot32 → b1.extractLsb' 6 2 = 3 ∧ b1.getLsbD 5 = true ∧ b2.getLsbD 6 = true) (rest : List Byte) :
    takeVex3 mode p (b1 :: b2 :: op :: rest) =
      takeVex mode p (!b1.getLsbD 7) (!b1.getLsbD 6) (!b1.getLsbD 5) (b2.extractLsb' 3 4) ctor rest := by
  have htop : ¬(mode = .prot32 ∧ b1.extractLsb' 6 2 ≠ 3) := fun ⟨hm, hne⟩ => hne (hprot hm).1
  have hext : ¬(mode = .prot32 ∧ (b1.getLsbD 5 = false ∨ b2.getLsbD 6 = false)) := by
    rintro ⟨hm, hbit⟩
    obtain ⟨-, h5, h6⟩ := hprot hm
    rw [h5, h6] at hbit
    exact hbit.elim nofun nofun
  simp only [takeVex3, if_neg htop, if_pos hpp, hrow, if_neg hext]

/-- VEX2 before the opcode of `VPMAXSW` (R119). -/
theorem takeVex2_of_row {mode : Mode} {p : Prefixes} {b1 : Byte} (hpp : b1.extractLsb' 0 2 = 1)
    (hprot : mode = .prot32 → b1.extractLsb' 6 2 = 3) (rest : List Byte) :
    takeVex2 mode p (b1 :: 0xEE :: rest) =
      takeVex mode p (!b1.getLsbD 7) false false (b1.extractLsb' 3 4)
        (if b1.getLsbD 2 then .vpmaxswVex256Short else .vpmaxswVex128Short) rest := by
  have htop : ¬(mode = .prot32 ∧ b1.extractLsb' 6 2 ≠ 3) := fun ⟨hm, hne⟩ => hne (hprot hm)
  simp only [takeVex2, if_neg htop, hpp, and_self, if_true]

theorem decodeAny_encodeVex3 {mode : Mode} {o : VexOperands} (h : o.wf mode false = true) {map : BitVec 5} {l : Bool}
    {op : Byte} {ctor : VexOperands → Instr} (hrow : vexRow map l op = some ctor) (rest : List Byte) :
    decodeAny mode (encodeVex3 map l op o ++ rest) = .ok (ctor o, rest) := by
  obtain ⟨hpfx, hregs, hext⟩ := VexOperands.parts_of_wf h
  obtain ⟨h7, h6, h5, hmap, htop⟩ := vex3_first_fields (r := ext3 o.d) (x := o.src.xExt) (b := o.src.bExt)
    (map := map) rfl
  obtain ⟨hv, hvvvv, hl, hpp⟩ := vex3_second_fields (vn := ~~~(BitVec.ofNat 4 o.s1.val)) (l := l) rfl
  simp only [encodeVex3, List.append_assoc, List.cons_append, List.nil_append]
  rw [decodeAny_encodePrefixes hpfx _ rfl]
  refine (takeVex3_of_row (ctor := ctor) hpp (by rw [hmap, hl, hrow]) (fun hm => ?_) _).trans ?_
  · obtain ⟨hd, hs1⟩ := hregs hm
    obtain ⟨hb, hx⟩ := hext (.inl hm)
    exact ⟨htop ⟨(ext_of_lt_eight hd).1, hx⟩, by rw [h5, hb]; rfl, by rw [hv, top_of_not hs1]⟩
  · rw [h7, h6, h5, hvvvv]
    simp only [Bool.not_not]
    exact takeVex_encode h ctor rest

theorem decodeAny_encodeVex2 {mode : Mode} {o : VexOperands} (h : o.wf mode true = true) {l : Bool}
    {ctor : VexOperands → Instr} (hctor : ctor = if l then .vpmaxswVex256Short else .vpmaxswVex128Short)
    (rest : List Byte) : decodeAny mode (encodeVex2 l 0xEE o ++ rest) = .ok (ctor o, rest) := by
  obtain ⟨hpfx, hregs, hext⟩ := VexOperands.parts_of_wf h
  obtain ⟨hb, hx⟩ := hext (.inr rfl)
  obtain ⟨h7, hvvvv, hl, hpp, htop⟩ := vex2_fields (r := ext3 o.d) (vn := ~~~(BitVec.ofNat 4 o.s1.val)) (l := l) rfl
  simp only [encodeVex2, List.append_assoc, List.cons_append, List.nil_append]
  rw [decodeAny_encodePrefixes hpfx _ rfl]
  refine (takeVex2_of_row hpp (fun hm => ?_) _).trans ?_
  · obtain ⟨hd, hs1⟩ := hregs hm
    exact htop ⟨(ext_of_lt_eight hd).1, top_of_not hs1⟩
  · have hoperands := takeVex_encode h ctor rest
    rw [hb, hx] at hoperands
    rw [h7, hvvvv, hl, ← hctor]
    simp only [Bool.not_not]
    exact hoperands

/-! ### The EVEX layout -/

/-- The fields of `P0` (R124, R126). -/
theorem evex_p0_fields {r x b r' : Bool} {map : BitVec 2} {byte : Byte}
    (h : byte = bit1 (!r) ++ bit1 (!x) ++ bit1 (!b) ++ bit1 (!r') ++ 0#2 ++ map) :
    byte.getLsbD 7 = !r ∧ byte.getLsbD 6 = !x ∧ byte.getLsbD 5 = !b ∧ byte.getLsbD 4 = !r' ∧
      byte.extractLsb' 2 2 = 0 ∧ byte.extractLsb' 0 2 = map ∧ (r = false ∧ x = false → byte.extractLsb' 6 2 = 3) := by
  subst h
  revert r x b r' map
  decide

/-- The fields of `P1` (R124, R126). -/
theorem evex_p1_fields {w v : Bool} {vvv : BitVec 3} {byte : Byte}
    (h : byte = bit1 w ++ bit1 (!v) ++ vvv ++ 1#1 ++ 1#2) :
    byte.getLsbD 7 = w ∧ byte.getLsbD 6 = !v ∧ byte.extractLsb' 3 3 = vvv ∧ byte.getLsbD 2 = true ∧
      byte.extractLsb' 0 2 = 1 := by
  subst h
  revert w v vvv
  decide

/-- The fields of `P2` (R124, R126, R130). -/
theorem evex_p2_fields {z b v' : Bool} {ll : BitVec 2} {aaa : BitVec 3} {byte : Byte}
    (h : byte = bit1 z ++ ll ++ bit1 b ++ bit1 (!v') ++ aaa) :
    byte.getLsbD 7 = z ∧ byte.extractLsb' 5 2 = ll ∧ byte.getLsbD 4 = b ∧ byte.getLsbD 3 = !v' ∧
      byte.extractLsb' 0 3 = aaa := by
  subst h
  revert z b v' ll aaa
  decide

/-- What `Prot32` asks of an EVEX form's registers (R127). -/
theorem EvexOperands.parts_of_wf {mode : Mode} {o : EvexOperands} (h : o.wf mode = true) :
    o.pfx.wf mode = true ∧ (∀ m, o.src = .mem m → m.shaped mode = true) ∧
      (mode = .prot32 → (o.d.val < 8 ∧ o.s1.val < 8) ∧ o.src.bExt = false ∧ o.src.xExt = false) := by
  simp only [EvexOperands.wf, Bool.and_eq_true, Bool.or_eq_true, decide_eq_true_eq, beq_iff_eq] at h
  obtain ⟨⟨hpfx, hregs⟩, hsrc⟩ := h
  obtain ⟨hshaped, hext⟩ := Source.parts_of_wf hsrc
  exact ⟨hpfx, hshaped, fun hm => ⟨hregs.resolve_left (by simp [hm]), hext (by simp [hm])⟩⟩

/-- The payload bytes have none of the bits that in `Prot32` make the bytes BOUND or would name a register above 7
(R125, R127). -/
def EvexBitsOfMode (mode : Mode) (p0 p1 p2 : Byte) : Prop :=
  mode = .prot32 → p0.extractLsb' 6 2 = 3 ∧ p0.getLsbD 5 = true ∧ p0.getLsbD 4 = true ∧ p1.getLsbD 6 = true ∧
    p2.getLsbD 3 = true

/-- Such bytes pass both tests that `takeEvex` makes in `Prot32`. -/
theorem EvexBitsOfMode.tests {mode : Mode} {p0 p1 p2 : Byte} (h : EvexBitsOfMode mode p0 p1 p2) :
    ¬(mode = .prot32 ∧ p0.extractLsb' 6 2 ≠ 3) ∧
      ¬(mode = .prot32 ∧
        (p0.getLsbD 5 = false ∨ p0.getLsbD 4 = false ∨ p1.getLsbD 6 = false ∨ p2.getLsbD 3 = false)) := by
  refine ⟨fun ⟨hm, hne⟩ => hne (h hm).1, ?_⟩
  rintro ⟨hm, hbit⟩
  obtain ⟨-, h5, h4, h6, h3⟩ := h hm
  rw [h5, h4, h6, h3] at hbit
  simp at hbit

/-- `P0`, `P1` and `P2` without the reserved patterns, before a row of the family (R132, R148). -/
theorem takeEvex_of_row {mode : Mode} {p : Prefixes} {p0 p1 p2 op : Byte} {ctor : EvexOperands → Instr}
    (hmode : EvexBitsOfMode mode p0 p1 p2) (hreserved : evexReserved p0 p1 = false) (hpp : p1.extractLsb' 0 2 = 1)
    (hrow : evexRow (p0.extractLsb' 0 2) (p1.getLsbD 7) (p2.extractLsb' 5 2) op = some ctor) (rest : List Byte) :
    takeEvex mode p (p0 :: p1 :: p2 :: op :: rest) = takeEvexOperands mode p p0 p1 p2 ctor rest := by
  obtain ⟨htop, hext⟩ := hmode.tests
  simp only [takeEvex, if_neg htop, if_neg hext, hreserved, Bool.false_eq_true, if_false, if_pos hpp, hrow]

theorem decodeAny_encodeEvex {mode : Mode} {o : EvexOperands} (h : o.wf mode = true) {map : BitVec 2} {w : Bool}
    {ll : BitVec 2} {op : Byte} {ctor : EvexOperands → Instr} (hmap0 : map ≠ 0)
    (hrow : evexRow map w ll op = some ctor) (rest : List Byte) :
    decodeAny mode (encodeEvex map w ll op o ++ rest) = .ok (ctor o, rest) := by
  obtain ⟨pfx, d, s1, src, aaa, z, b⟩ := o
  obtain ⟨hpfx, hshaped, hprot⟩ := EvexOperands.parts_of_wf h
  obtain ⟨h07, h06, h05, h04, h02, hmap, htop⟩ :=
    evex_p0_fields (r := ext3 d) (x := src.xExt) (b := src.bExt) (r' := ext4 d) (map := map) rfl
  obtain ⟨h17, h16, hvvv, h12, hpp⟩ := evex_p1_fields (w := w) (v := ext3 s1) (vvv := ~~~(lowBits s1)) rfl
  obtain ⟨h27, hll, h24, h23, haaa⟩ :=
    evex_p2_fields (z := z) (b := b) (v' := ext4 s1) (ll := ll) (aaa := BitVec.ofNat 3 aaa.val) rfl
  have hreg : ∀ r, src = .reg r → reg5 src.xExt src.bExt (lowBits r) = r := by
    rintro r rfl
    exact reg5_of_bits r
  have hk : (BitVec.ofNat 3 aaa.val).toFin = aaa := Fin.ext (Nat.mod_eq_of_lt aaa.isLt)
  simp only [encodeEvex, List.append_assoc, List.cons_append, List.nil_append]
  rw [decodeAny_encodePrefixes hpfx _ rfl]
  refine (takeEvex_of_row (ctor := ctor) (fun hm => ?_) ?_ hpp (by rw [hmap, h17, hll, hrow]) _).trans ?_
  · obtain ⟨⟨hd, hs1⟩, hb, hx⟩ := hprot hm
    obtain ⟨hd3, hd4⟩ := ext_of_lt_eight hd
    obtain ⟨hs3, hs4⟩ := ext_of_lt_eight hs1
    exact ⟨htop ⟨hd3, hx⟩, by rw [h05, hb]; rfl, by rw [h04, hd4]; rfl, by rw [h16, hs3]; rfl, by rw [h23, hs4]; rfl⟩
  · simpa [evexReserved, h02, h12, hmap] using hmap0
  · simp only [takeEvexOperands, h07, h06, h05, h04, h16, hvvv, h27, h24, h23, haaa, Bool.not_not, BitVec.not_not,
      takeModRM_encode _ hreg hshaped, reg5_of_bits, hk]

/-! ## The decoder -/

/-- The layouts read back what the encoder wrote, row by row (R145). -/
theorem decodeAny_encode {mode : Mode} {i : Instr} (h : i.shaped mode = true) (rest : List Byte) :
    decodeAny mode (encode i ++ rest) = .ok (i, rest) := by
  cases i with
  | pmaxswMmx o => exact decodeAny_encodeMmx h rest
  | pmaxsbXmm o => exact decodeAny_encodeSse h (three := true) (op := 0x3C) rfl (fun _ _ => rfl) rest
  | pmaxswXmm o => exact decodeAny_encodeSse h (three := false) (op := 0xEE) rfl (fun _ _ => rfl) rest
  | pmaxsdXmm o => exact decodeAny_encodeSse h (three := true) (op := 0x3D) rfl (fun _ _ => rfl) rest
  | vpmaxsbVex128 o => exact decodeAny_encodeVex3 h rfl rest
  | vpmaxswVex128 o => exact decodeAny_encodeVex3 h rfl rest
  | vpmaxswVex128Short o => exact decodeAny_encodeVex2 h rfl rest
  | vpmaxsdVex128 o => exact decodeAny_encodeVex3 h rfl rest
  | vpmaxsbVex256 o => exact decodeAny_encodeVex3 h rfl rest
  | vpmaxswVex256 o => exact decodeAny_encodeVex3 h rfl rest
  | vpmaxswVex256Short o => exact decodeAny_encodeVex2 h rfl rest
  | vpmaxsdVex256 o => exact decodeAny_encodeVex3 h rfl rest
  | vpmaxsbEvex128 o | vpmaxsbEvex256 o | vpmaxsbEvex512 o | vpmaxswEvex128 o | vpmaxswEvex256 o
  | vpmaxswEvex512 o | vpmaxsdEvex128 o | vpmaxsdEvex256 o | vpmaxsdEvex512 o | vpmaxsqEvex128 o
  | vpmaxsqEvex256 o | vpmaxsqEvex512 o => exact decodeAny_encodeEvex h (by decide) rfl rest

/-- Only the two modes of 60_exceptions R240 have a well-formed instruction. -/
theorem mode_of_shaped {mode : Mode} {i : Instr} (h : i.shaped mode = true) : mode = .long64 ∨ mode = .prot32 := by
  cases mode with
  | long64 => exact .inl rfl
  | prot32 => exact .inr rfl
  | _ => cases i <;> cases h

/-- An instruction of at most 15 bytes that a layout reads is the decoder's answer. -/
theorem decode_of_decodeAny {mode : Mode} (hmode : mode = .long64 ∨ mode = .prot32) {bytes rest : List Byte} {i : Instr}
    (h : decodeAny mode bytes = .ok (i, rest)) (hlen : i.length ≤ maxLength) : decode mode bytes = .ok (i, rest) := by
  have hadmitted : ¬(mode ≠ .long64 ∧ mode ≠ .prot32) := by tauto
  simp only [decode, if_neg hadmitted, h, if_pos hlen]

theorem decode_encode {mode : Mode} {i : Instr} (h : i.wf mode = true) (rest : List Byte) :
    decode mode (encode i ++ rest) = .ok (i, rest) := by
  obtain ⟨hshaped, hlen⟩ := Bool.and_eq_true_iff.1 h
  exact decode_of_decodeAny (mode_of_shaped hshaped) (decodeAny_encode hshaped rest) (of_decide_eq_true hlen)

end Sys2Proof
end

section
/-! PROOFS. The decoder behind legacy prefixes and REX: what is refused or goes on there depends on those bytes alone
(30_encoding R111, R113, R147), and no row that ignores `W` depends on it (R156). -/

namespace Sys2Proof

open Sys2Proof.Safety

/-! ## Legacy prefixes in any order -/

theorem addPrefix_ne_none (p : Prefixes) {b : Byte} (h : b ∈ prefixBytes) : addPrefix p b ≠ none := by
  simp only [prefixBytes, overrideBytes, List.cons_append, List.nil_append, List.mem_cons, List.not_mem_nil,
    or_false] at h
  rcases h with rfl | rfl | rfl | rfl | rfl | rfl | rfl | rfl | rfl | rfl | rfl <;> exact Option.some_ne_none _

/-- Legacy prefixes are refused, or leave prefixes behind, whatever follows. -/
theorem scanPrefixes_prefixes {pre : List Byte} (h : ∀ b ∈ pre, b ∈ prefixBytes) (p : Prefixes) :
    (∃ e, ∀ rest, scanPrefixes p (pre ++ rest) = .error e) ∨
      ∃ q, ∀ rest, scanPrefixes p (pre ++ rest) = scanPrefixes q rest := by
  induction pre generalizing p with
  | nil => exact .inr ⟨p, fun _ => rfl⟩
  | cons b pre ih =>
    obtain ⟨hb, hpre⟩ := List.forall_mem_cons.1 h
    match hadd : addPrefix p b with
    | none => exact absurd hadd (addPrefix_ne_none p hb)
    | some (.error e) => exact .inl ⟨e, fun rest => by rw [List.cons_append, scanPrefixes, hadd]⟩
    | some (.ok p') =>
      simp only [List.cons_append, scanPrefixes_cons hadd]
      exact ih hpre p'

/-- No REX byte, or one, as the encoder writes it. -/
theorem flagByte_of_optionalRex {rx : List Byte} (h : OptionalRex rx) :
    ∃ (on : Bool) (wrxb : BitVec 4), rx = flagByte on (4#4 ++ wrxb) ∧ (rx = [] → on = false) := by
  obtain rfl | ⟨wrxb, rfl⟩ := h
  · exact ⟨false, 0, rfl, fun _ => rfl⟩
  · exact ⟨true, wrxb, rfl, nofun⟩

/-- A REX byte where the mode has none opens no layout. -/
theorem takeLayout_rex (mode : Mode) (p : Prefixes) (rex : Option Byte) (wrxb : BitVec 4) (rest : List Byte) :
    takeLayout mode p rex ((4#4 ++ wrxb) :: rest) = .error .notOfFamily := by
  have hopens : ∀ w : BitVec 4, ¬(4#4 ++ w : Byte) = 0x0F ∧ ¬(4#4 ++ w : Byte) = 0xC4 ∧ ¬(4#4 ++ w : Byte) = 0xC5 ∧
      ¬(4#4 ++ w : Byte) = 0x62 := by decide
  obtain ⟨h0F, hC4, hC5, h62⟩ := hopens wrxb
  simp only [takeLayout, if_neg h0F, if_neg hC4, if_neg hC5, if_neg h62]

theorem splitRex_of_not_long64 {mode : Mode} (h : mode ≠ .long64) (b : Byte) (rest : List Byte) :
    splitRex mode (b :: rest) = .ok (none, b :: rest) := by
  simp [splitRex, h]

/-- What the decoder answers behind legacy prefixes and REX is what the layout answers. -/
theorem decodeAny_congr {mode : Mode} {pre rx : List Byte} (hpre : ∀ b ∈ pre, b ∈ prefixBytes) (hrx : OptionalRex rx)
    {c : Byte} (hc : opensLayout c = true) {t t' : List Byte}
    (h : ∀ p rex, takeLayout mode p rex (c :: t) = takeLayout mode p rex (c :: t')) :
    decodeAny mode (pre ++ rx ++ c :: t) = decodeAny mode (pre ++ rx ++ c :: t') := by
  obtain ⟨on, wrxb, rfl, -⟩ := flagByte_of_optionalRex hrx
  simp only [List.append_assoc]
  obtain ⟨e, hscan⟩ | ⟨q, hscan⟩ := scanPrefixes_prefixes hpre noPrefixes
  · simp only [decodeAny, hscan]
  · have hend := fun t => (hscan _).trans (scanPrefixes_rex q on wrxb hc t)
    cases hpolicy : prefixPolicy mode q with
    | some e => simp only [decodeAny, hend, hpolicy]
    | none =>
      by_cases hon : on = true → mode = .long64
      · have hrex := splitRex_flagByte hon wrxb hc
        rw [decodeAny_of_parts (hend t) hpolicy (hrex t), decodeAny_of_parts (hend t') hpolicy (hrex t'), h]
      · obtain ⟨rfl, hmode⟩ : on = true ∧ mode ≠ .long64 := by simpa using hon
        have hrex := fun t => splitRex_of_not_long64 hmode (4#4 ++ wrxb) (c :: t)
        rw [decodeAny_of_parts (hend t) hpolicy (hrex t), decodeAny_of_parts (hend t') hpolicy (hrex t'),
          takeLayout_rex, takeLayout_rex]

theorem decode_congr {mode : Mode} {bytes bytes' : List Byte} (hlen : bytes.length = bytes'.length)
    (h : decodeAny mode bytes = decodeAny mode bytes') : decode mode bytes = decode mode bytes' := by
  simp only [decode, h, hlen]

/-! ## The ignored `W` -/

/-- A byte with its top bit flipped is the same below. -/
theorem getLsbD_flipTop (b : Byte) {n : Nat} (h : n < 7) : (b ^^^ 0x80).getLsbD n = b.getLsbD n := by
  have low : ∀ n < 7, (0x80 : Byte).getLsbD n = false := by decide
  rw [BitVec.getLsbD_xor, low n h, Bool.xor_false]

theorem extractLsb'_flipTop (b : Byte) {start len : Nat} (h : start + len ≤ 7) :
    (b ^^^ 0x80).extractLsb' start len = b.extractLsb' start len := by
  ext n hn
  rw [BitVec.getElem_extractLsb', BitVec.getElem_extractLsb', getLsbD_flipTop b (by omega)]

/-- VEX3 has no row that depends on `W` (R156). -/
theorem takeVex3_flipTop (mode : Mode) (p : Prefixes) (b1 b2 op : Byte) (rest : List Byte) :
    takeVex3 mode p (b1 :: (b2 ^^^ 0x80) :: op :: rest) = takeVex3 mode p (b1 :: b2 :: op :: rest) := by
  simp only [takeVex3, getLsbD_flipTop b2 (by decide : 2 < 7), getLsbD_flipTop b2 (by decide : 6 < 7),
    extractLsb'_flipTop b2 (by decide : 0 + 2 ≤ 7), extractLsb'_flipTop b2 (by decide : 3 + 4 ≤ 7)]

/-- The byte and word rows of EVEX do not depend on `W` (R156). -/
theorem evexRow_width {op : Byte} (h : op = 0x3C ∨ op = 0xEE) (map : BitVec 2) (w w' : Bool) (ll : BitVec 2) :
    evexRow map w ll op = evexRow map w' ll op := by
  obtain rfl | rfl := h <;> simp [evexRow]

theorem takeEvexOperands_flipTop (mode : Mode) (p : Prefixes) (p0 p1 p2 : Byte) (ctor : EvexOperands → Instr)
    (rest : List Byte) :
    takeEvexOperands mode p p0 (p1 ^^^ 0x80) p2 ctor rest = takeEvexOperands mode p p0 p1 p2 ctor rest := by
  simp only [takeEvexOperands, getLsbD_flipTop p1 (by decide : 6 < 7), extractLsb'_flipTop p1 (by decide : 3 + 3 ≤ 7)]

theorem takeEvex_flipTop {op : Byte} (h : op = 0x3C ∨ op = 0xEE) (mode : Mode) (p : Prefixes) (p0 p1 p2 : Byte)
    (rest : List Byte) :
    takeEvex mode p (p0 :: (p1 ^^^ 0x80) :: p2 :: op :: rest) = takeEvex mode p (p0 :: p1 :: p2 :: op :: rest) := by
  have hreserved : evexReserved p0 (p1 ^^^ 0x80) = evexReserved p0 p1 := by
    rw [evexReserved, getLsbD_flipTop p1 (by decide : 2 < 7), evexReserved]
  have hrow := evexRow_width h (p0.extractLsb' 0 2) ((p1 ^^^ 0x80).getLsbD 7) (p1.getLsbD 7)
  simp only [takeEvex, getLsbD_flipTop p1 (by decide : 6 < 7), extractLsb'_flipTop p1 (by decide : 0 + 2 ≤ 7),
    hreserved, hrow, takeEvexOperands_flipTop]

end Sys2Proof
end

section
/-! PROOFS. Reserved EVEX patterns: which bytes reach them, and how many they have (30_encoding R147, R148, R151). -/

namespace Sys2Proof

open Sys2Proof.Safety

/-! ## Prefixes that are not refused -/

/-- The part of the prefixes that a legacy byte sets is set already (R111). -/
def prefixTaken (p : Prefixes) (b : Byte) : Bool :=
  if b = 0xF0 then p.lock
  else if b = 0xF2 then p.repne
  else if b = 0xF3 then p.rep
  else if b = 0x66 then p.opsize
  else if b = 0x67 then p.addrsize
  else p.seg.isSome

/-- Two legacy bytes that may stand together: they differ, and are not both segment overrides (R111). -/
def MayFollow (b c : Byte) : Prop := c ≠ b ∧ ¬(b ∈ overrideBytes ∧ c ∈ overrideBytes)

theorem addPrefix_override (p : Prefixes) {b : Byte} (hb : b ∈ overrideBytes) (hfree : prefixTaken p b = false) :
    ∃ g, addPrefix p b = some (.ok { p with seg := some g }) := by
  simp only [overrideBytes, List.mem_cons, List.not_mem_nil, or_false] at hb
  rcases hb with rfl | rfl | rfl | rfl | rfl | rfl <;>
  · have hnone : p.seg.isSome = false := hfree
    exact ⟨_, congrArg some (if_neg (Bool.eq_false_iff.1 hnone))⟩

/-- A legacy byte whose part is not set is taken, and sets no other part. -/
theorem addPrefix_of_free {p : Prefixes} {b : Byte} (hb : b ∈ prefixBytes) (hfree : prefixTaken p b = false) :
    ∃ p', addPrefix p b = some (.ok p') ∧
      ∀ c ∈ prefixBytes, MayFollow b c → prefixTaken p' c = prefixTaken p c := by
  have flag : ∀ {seen : Bool} {q : Prefixes}, seen = false → some (once seen q) = some (.ok q) := by
    rintro _ q rfl
    rfl
  have hcases : b = 0xF0 ∨ b = 0xF2 ∨ b = 0xF3 ∨ b = 0x66 ∨ b = 0x67 ∨ b ∈ overrideBytes := by
    simpa [prefixBytes] using hb
  obtain rfl | rfl | rfl | rfl | rfl | hover := hcases
  · exact ⟨{ p with lock := true }, flag hfree, fun c _ h => by simp only [prefixTaken, if_neg h.1]⟩
  · exact ⟨{ p with repne := true }, flag hfree, fun c _ h => by simp only [prefixTaken, if_neg h.1]⟩
  · exact ⟨{ p with rep := true }, flag hfree, fun c _ h => by simp only [prefixTaken, if_neg h.1]⟩
  · exact ⟨{ p with opsize := true }, flag hfree, fun c _ h => by simp only [prefixTaken, if_neg h.1]⟩
  · exact ⟨{ p with addrsize := true }, flag hfree, fun c _ h => by simp only [prefixTaken, if_neg h.1]⟩
  · obtain ⟨g, hadd⟩ := addPrefix_override p hover hfree
    refine ⟨_, hadd, fun c hc h => ?_⟩
    have hflag : c = 0xF0 ∨ c = 0xF2 ∨ c = 0xF3 ∨ c = 0x66 ∨ c = 0x67 := by
      have hnot : c ∉ overrideBytes := fun hco => h.2 ⟨hover, hco⟩
      simpa [prefixBytes, hnot] using hc
    obtain rfl | rfl | rfl | rfl | rfl := hflag <;> rfl

theorem mem_prefixBytes_of_admitted (mode : Mode) : ∀ b ∈ admittedPrefixBytes mode, b ∈ prefixBytes := by
  cases mode <;> decide

/-- A legacy byte changes the segment as an override and the address size as `67` alone (R111). -/
theorem addPrefix_effect {p p' : Prefixes} {b : Byte} (h : addPrefix p b = some (.ok p')) :
    (p'.seg = p.seg ∨ p'.seg = segmentOverride b) ∧ (p'.addrsize = p.addrsize ∨ b = 0x67) := by
  have flag : ∀ {seen : Bool} {q : Prefixes}, some (once seen q) = some (.ok p') → p' = q :=
    fun hq => (once_ok (Option.some.inj hq)).2
  simp only [addPrefix] at h
  iterate 4
    split at h
    · obtain rfl := flag h
      exact ⟨.inl rfl, .inl rfl⟩
  split at h
  next h67 =>
    obtain rfl := flag h
    exact ⟨.inl rfl, .inr h67⟩
  next =>
    split at h
    next hg =>
      split at h
      next => cases h
      next =>
        cases h
        exact ⟨.inr hg.symm, .inl rfl⟩
    next => cases h

/-- A legacy byte that the mode has does not get the prefixes refused (R137, R138). -/
theorem prefixPolicy_of_addPrefix {mode : Mode} {p p' : Prefixes} {b : Byte} (hb : b ∈ admittedPrefixBytes mode)
    (hadd : addPrefix p b = some (.ok p')) (h : prefixPolicy mode p = none) : prefixPolicy mode p' = none := by
  have hover : ∀ b ∈ admittedPrefixBytes mode, overrideAdmitted mode (segmentOverride b) = true := by
    cases mode <;> decide
  have h67 : (0x67 : Byte) ∉ admittedPrefixBytes .prot32 := by decide
  rw [prefixPolicy_none_iff] at h ⊢
  obtain ⟨hseg, haddr⟩ := h
  obtain ⟨hseg', haddr'⟩ := addPrefix_effect hadd
  constructor
  · obtain hs | hs := hseg' <;> rw [hs]
    · exact hseg
    · exact hover b hb
  · rintro ⟨rfl, hon⟩
    obtain ha | rfl := haddr'
    · exact haddr ⟨rfl, ha ▸ hon⟩
    · exact h67 hb

/-- Admitted prefixes are scanned to their end, whatever follows them. -/
theorem scanPrefixes_of_free {mode : Mode} {pre : List Byte}
    (hpre : ∀ b ∈ pre, b ∈ admittedPrefixBytes mode) (hpair : pre.Pairwise MayFollow) {p : Prefixes}
    (hfree : ∀ b ∈ pre, prefixTaken p b = false) (hpolicy : prefixPolicy mode p = none) :
    ∃ q, (∀ rest, scanPrefixes p (pre ++ rest) = scanPrefixes q rest) ∧ prefixPolicy mode q = none ∧ q.rex = p.rex ∧
      q.length = p.length + pre.length := by
  induction pre generalizing p with
  | nil => exact ⟨p, fun _ => rfl, hpolicy, rfl, rfl⟩
  | cons b pre ih =>
    obtain ⟨hb, hpre⟩ := List.forall_mem_cons.1 hpre
    obtain ⟨hfb, hfree⟩ := List.forall_mem_cons.1 hfree
    obtain ⟨hbpre, hpair⟩ := List.pairwise_cons.1 hpair
    have hprefix := mem_prefixBytes_of_admitted mode
    obtain ⟨p', hadd, hkeep⟩ := addPrefix_of_free (hprefix b hb) hfb
    obtain ⟨hlen, hrex⟩ := addPrefix_ok hadd
    have hfree' : ∀ c ∈ pre, prefixTaken p' c = false := fun c hc =>
      (hkeep c (hprefix c (hpre c hc)) (hbpre c hc)).trans (hfree c hc)
    obtain ⟨q, hscan, hpol, hqrex, hqlen⟩ := ih hpre hpair hfree' (prefixPolicy_of_addPrefix hb hadd hpolicy)
    refine ⟨q, fun rest => (scanPrefixes_cons hadd _).trans (hscan rest), hpol, hqrex.trans hrex, ?_⟩
    rw [hqlen, hlen, List.length_cons]
    omega

/-- Prefixes without a repetition and with one override at most may stand together, in any order. -/
theorem pairwise_of_admitted {mode : Mode} {pre : List Byte} (h : AdmittedPrefixes mode pre) :
    pre.Pairwise MayFollow := by
  obtain ⟨-, hnodup, hone⟩ := h
  have hover : pre.Pairwise fun b c => overrideBytes.contains b = true → overrideBytes.contains c = true → False := by
    rw [← List.pairwise_filter]
    match hf : pre.filter fun b => overrideBytes.contains b, hone with
    | [], _ => exact .nil
    | [b], _ => exact List.pairwise_singleton _ b
  refine (hnodup.and hover).imp ?_
  rintro b c ⟨hne, hnot⟩
  exact ⟨hne.symm, fun ⟨hb, hc⟩ => hnot (List.contains_iff_mem.2 hb) (List.contains_iff_mem.2 hc)⟩

theorem scanPrefixes_admitted {mode : Mode} {pre : List Byte} (h : AdmittedPrefixes mode pre) :
    ∃ q, (∀ rest, scanPrefixes noPrefixes (pre ++ rest) = scanPrefixes q rest) ∧ prefixPolicy mode q = none ∧
      q.rex = false ∧ q.length = pre.length := by
  have hfree : ∀ b ∈ pre, prefixTaken noPrefixes b = false := fun b _ => by simp [prefixTaken, noPrefixes]
  have hpolicy : prefixPolicy mode noPrefixes = none := by simp [prefixPolicy, noPrefixes, overrideAdmitted]
  obtain ⟨q, hscan, hpol, hrex, hlen⟩ := scanPrefixes_of_free h.1 (pairwise_of_admitted h) hfree hpolicy
  exact ⟨q, hscan, hpol, hrex, hlen.trans (Nat.zero_add _)⟩

/-! ## The bytes of ModRM, SIB and displacement -/

/-- Of `given` bytes a part of the decoder takes the `n` that it needs, and answers something of that size; where fewer
stand there the bytes are truncated (R147, step 5). -/
def Measured {α : Type} (size : α → Nat) (n given : Nat) (r : Except DecodeError (α × List Byte)) : Prop :=
  (n ≤ given → ∃ a rest, r = .ok (a, rest) ∧ size a = n) ∧ (given < n → r = .error .truncated)

theorem measured_ok {α : Type} {size : α → Nat} {n given : Nat} {a : α} {rest : List Byte} (hn : n ≤ given)
    (h : size a = n) : Measured size n given (.ok (a, rest)) :=
  ⟨fun _ => ⟨a, rest, rfl, h⟩, fun hlt => absurd hn (not_le.2 hlt)⟩

theorem measured_truncated {α : Type} {size : α → Nat} {n given : Nat} (hn : given < n) :
    Measured size n given (.error .truncated) :=
  ⟨fun hle => absurd hn (not_lt.2 hle), fun _ => rfl⟩

/-- A part that is `k` more bytes before another part. -/
theorem Measured.map {α β : Type} {size : α → Nat} {size' : β → Nat} {n given : Nat}
    {r : Except DecodeError (α × List Byte)} (h : Measured size n given r) (f : α → β) (k : Nat)
    (hf : ∀ a, size' (f a) = size a + k) : Measured size' (n + k) (given + k) (r.map (Prod.map f id)) := by
  obtain ⟨hok, htruncated⟩ := h
  constructor
  · intro hle
    obtain ⟨a, rest, rfl, ha⟩ := hok (by omega)
    exact ⟨f a, rest, rfl, by rw [hf, ha]⟩
  · intro hlt
    rw [htruncated (by omega)]
    rfl

theorem take32_measured (bytes : List Byte) : Measured (fun _ => 4) 4 bytes.length (take32 bytes) := by
  match bytes with
  | [] | [_] | [_, _] | [_, _, _] => exact measured_truncated (by simp)
  | _ :: _ :: _ :: _ :: _ => exact measured_ok (by simp) rfl

/-- Bytes of the displacement that `mod` asks for beside a base register (R134). -/
def dispBytes (mod : BitVec 2) : Nat := if mod = 0 then 0 else if mod = 1 then 1 else 4

theorem takeDisp_measured (mod : BitVec 2) (bytes : List Byte) :
    Measured Disp.length (dispBytes mod) bytes.length (takeDisp mod bytes) := by
  by_cases h0 : mod = 0
  · simp only [takeDisp, dispBytes, if_pos h0]
    exact measured_ok (Nat.zero_le _) rfl
  by_cases h1 : mod = 1
  · simp only [takeDisp, dispBytes, if_neg h0, if_pos h1]
    cases bytes with
    | nil => exact measured_truncated Nat.zero_lt_one
    | cons b rest => exact measured_ok (by simp) rfl
  · have htake : takeDisp mod bytes = (take32 bytes).map (Prod.map Disp.disp32 id) := by
      simp only [takeDisp, if_neg h0, if_neg h1]
      cases take32 bytes <;> rfl
    rw [htake, dispBytes, if_neg h0, if_neg h1]
    exact (take32_measured bytes).map Disp.disp32 0 fun _ => rfl

/-- Bytes of SIB and displacement, `bytes` being what follows ModRM. -/
def memBytes (mod : BitVec 2) (rm : BitVec 3) (bytes : List Byte) : Nat :=
  if rm = 4 then (if mod = 0 ∧ (bytes.headD 0).extractLsb' 0 3 = 5 then 4 else dispBytes mod) + 1
  else if mod = 0 ∧ rm = 5 then 4
  else dispBytes mod

theorem takeMem_measured (mode : Mode) (bx xx : Bool) (mod : BitVec 2) (rm : BitVec 3) (bytes : List Byte) :
    Measured MemOperand.length (memBytes mod rm bytes) bytes.length (takeMem mode bx xx mod rm bytes) := by
  by_cases hrm : rm = 4
  · cases bytes with
    | nil =>
      simp only [takeMem, if_pos hrm]
      exact measured_truncated (by simp [memBytes, hrm])
    | cons sib rest =>
      by_cases hbase : mod = 0 ∧ sib.extractLsb' 0 3 = 5
      · have htake : takeMem mode bx xx mod rm (sib :: rest) = (take32 rest).map (Prod.map
            (.sibNoBase (sib.extractLsb' 6 2).toFin (sibIndex xx (sib.extractLsb' 3 3))) id) := by
          simp only [takeMem, if_pos hrm, if_pos hbase]
          cases take32 rest <;> rfl
        rw [htake, memBytes, if_pos hrm, List.headD_cons, if_pos hbase]
        exact (take32_measured rest).map _ 1 fun _ => rfl
      · have htake : takeMem mode bx xx mod rm (sib :: rest) = (takeDisp mod rest).map (Prod.map
            (.sib (sib.extractLsb' 6 2).toFin (sibIndex xx (sib.extractLsb' 3 3))
              (reg4 bx (sib.extractLsb' 0 3))) id) := by
          simp only [takeMem, if_pos hrm, if_neg hbase]
          cases takeDisp mod rest <;> rfl
        rw [htake, memBytes, if_pos hrm, List.headD_cons, if_neg hbase]
        exact (takeDisp_measured mod rest).map _ 1 fun d => Nat.add_comm 1 d.length
  by_cases hbase : mod = 0 ∧ rm = 5
  · have htake : takeMem mode bx xx mod rm bytes = (take32 bytes).map (Prod.map
        (fun d => if mode = .long64 then .pcRelative d else .absolute d) id) := by
      simp only [takeMem, if_neg hrm, if_pos hbase]
      cases take32 bytes <;> rfl
    rw [htake, memBytes, if_neg hrm, if_pos hbase]
    exact (take32_measured bytes).map _ 0 fun d => by split <;> rfl
  · have htake : takeMem mode bx xx mod rm bytes = (takeDisp mod bytes).map (Prod.map (.base (reg4 bx rm)) id) := by
      simp only [takeMem, if_neg hrm, if_neg hbase]
      cases takeDisp mod bytes <;> rfl
    rw [htake, memBytes, if_neg hrm, if_neg hbase]
    exact (takeDisp_measured mod bytes).map _ 0 fun _ => rfl

/-- The count of R147, step 5, by the shape of the operand. -/
theorem modRMLength_cons (m : Byte) (rest : List Byte) :
    modRMLength (m :: rest) =
      (if m.extractLsb' 6 2 = 3 then 0 else memBytes (m.extractLsb' 6 2) (m.extractLsb' 0 3) rest) + 1 := by
  have fields : ∀ (mod : BitVec 2) (rm bs : BitVec 3),
      1 + (if mod ≠ 3 ∧ rm = 4 then 1 else 0) +
          (if mod = 2 ∨ (mod = 0 ∧ rm = 5) ∨ (mod = 0 ∧ rm = 4 ∧ bs = 5) then 4 else if mod = 1 then 1 else 0) =
        (if mod = 3 then 0
          else if rm = 4 then (if mod = 0 ∧ bs = 5 then 4 else dispBytes mod) + 1
          else if mod = 0 ∧ rm = 5 then 4
          else dispBytes mod) + 1 := by decide
  exact fields (m.extractLsb' 6 2) (m.extractLsb' 0 3) ((rest.headD 0).extractLsb' 0 3)

theorem takeModRM_measured {n : Nat} (mode : Mode) (bx xx : Bool) (regOf : BitVec 3 → Fin n) (bytes : List Byte) :
    (modRMLength bytes ≤ bytes.length →
      ∃ reg src rest, takeModRM mode bx xx regOf bytes = .ok (reg, src, rest) ∧ src.length + 1 = modRMLength bytes) ∧
    (bytes.length < modRMLength bytes → takeModRM mode bx xx regOf bytes = .error .truncated) := by
  cases bytes with
  | nil => exact ⟨fun h => absurd h (by simp [modRMLength]), fun _ => rfl⟩
  | cons m rest =>
    rw [modRMLength_cons, List.length_cons]
    by_cases h3 : m.extractLsb' 6 2 = 3
    · simp only [takeModRM, if_pos h3]
      exact ⟨fun _ => ⟨_, _, _, rfl, rfl⟩, fun h => absurd h (by omega)⟩
    · simp only [takeModRM, if_neg h3]
      obtain ⟨hok, htruncated⟩ := takeMem_measured mode bx xx (m.extractLsb' 6 2) (m.extractLsb' 0 3) rest
      constructor
      · intro h
        obtain ⟨mem, rest', hmem, hlen⟩ := hok (by omega)
        rw [hmem]
        exact ⟨_, .mem mem, _, rfl, congrArg (· + 1) hlen⟩
      · intro h
        rw [htruncated (by omega)]

/-! ## Reserved patterns -/

/-- A reserved pattern of at most 15 bytes is reported where they all stand there; where not, it is truncated. -/
theorem reservedEvex_eq (mode : Mode) (p : Prefixes) (e : DecodeError) (bytes : List Byte) :
    (modRMLength bytes ≤ bytes.length → p.length + 5 + modRMLength bytes ≤ maxLength →
      reservedEvex mode p e bytes = .error e) ∧
    (bytes.length < modRMLength bytes → reservedEvex mode p e bytes = .error .truncated) := by
  obtain ⟨hok, htruncated⟩ := takeModRM_measured (n := 32) mode false false (reg5 false false) bytes
  constructor
  · intro hle hmax
    obtain ⟨reg, src, rest, htake, hlen⟩ := hok hle
    have hform : formLength 5 p src ≤ maxLength := by
      rw [formLength]
      omega
    simp only [reservedEvex, htake, if_pos hform]
  · intro hlt
    simp only [reservedEvex, htruncated hlt]

/-- Reserved bits of `P0` and `P1` are found before the opcode is looked at (R148). -/
theorem takeEvex_reservedBits {mode : Mode} {p0 p1 p2 : Byte} (hmode : EvexBitsOfMode mode p0 p1 p2)
    (h : p0.extractLsb' 2 2 ≠ 0 ∨ p1.getLsbD 2 = false ∨ p0.extractLsb' 0 2 = 0) (p : Prefixes) (op : Byte)
    (tail : List Byte) :
    takeEvex mode p (p0 :: p1 :: p2 :: op :: tail) = reservedEvex mode p .evexReservedBits tail := by
  obtain ⟨htop, hext⟩ := hmode.tests
  have hreserved : evexReserved p0 p1 = true := by
    simp only [evexReserved, Bool.or_eq_true, bne_iff_ne, Bool.not_eq_true', beq_iff_eq]
    tauto
  simp only [takeEvex, if_neg htop, if_neg hext, hreserved, if_true]

/-- The family's opcodes have rows at `L'L = 00b` and none at `11b` (R145, R151). -/
theorem evexRow_lengths {map : BitVec 2} {op : Byte} (h : (map = 2 ∧ (op = 0x3C ∨ op = 0x3D)) ∨ (map = 1 ∧ op = 0xEE))
    (w : Bool) : evexRow map w 3 op = none ∧ (evexRow map w 0 op).isSome = true := by
  obtain ⟨rfl, rfl | rfl⟩ | ⟨rfl, rfl⟩ := h <;> cases w <;> exact ⟨rfl, rfl⟩

/-- The reserved vector length, before a row of the family (R151). -/
theorem takeEvex_reservedLength {mode : Mode} {p0 p1 p2 op : Byte} (hmode : EvexBitsOfMode mode p0 p1 p2)
    (h02 : p0.extractLsb' 2 2 = 0) (h12 : p1.getLsbD 2 = true) (hpp : p1.extractLsb' 0 2 = 1)
    (hll : p2.extractLsb' 5 2 = 3)
    (hrow : (p0.extractLsb' 0 2 = 2 ∧ (op = 0x3C ∨ op = 0x3D)) ∨ (p0.extractLsb' 0 2 = 1 ∧ op = 0xEE)) (p : Prefixes)
    (tail : List Byte) :
    takeEvex mode p (p0 :: p1 :: p2 :: op :: tail) = reservedEvex mode p .evexReservedLength tail := by
  obtain ⟨htop, hext⟩ := hmode.tests
  obtain ⟨hnone, hsome⟩ := evexRow_lengths hrow (p1.getLsbD 7)
  have hmap : p0.extractLsb' 0 2 ≠ 0 := by
    obtain ⟨h, -⟩ | ⟨h, -⟩ := hrow <;> rw [h] <;> decide
  have hreserved : evexReserved p0 p1 = false := by simpa [evexReserved, h02, h12] using hmap
  simp only [takeEvex, if_neg htop, if_neg hext, hreserved, Bool.false_eq_true, if_false, if_pos hpp, hll, hnone, hsome,
    and_self, if_true]

/-- The decoder on a reserved EVEX pattern behind admitted prefixes: its error where the bytes are all there and 15 at
most, too long where 15 bytes do not end it (60_exceptions R229, level 1). -/
theorem decode_of_reservedEvex {mode : Mode} (hmode : mode = .long64 ∨ mode = .prot32) {pre rx : List Byte}
    (hpre : AdmittedPrefixes mode pre) (hrx : OptionalRex rx) (hprot : mode = .prot32 → rx = [])
    {p0 p1 p2 op : Byte} {tail bytes : List Byte} {e : DecodeError} (he : e ≠ .truncated)
    (htake : ∀ p, takeEvex mode p (p0 :: p1 :: p2 :: op :: tail) = reservedEvex mode p e tail)
    (hbytes : bytes = pre ++ rx ++ [0x62, p0, p1, p2, op] ++ tail) (hmax : bytes.length ≤ maxLength) :
    (pre.length + rx.length + 5 + modRMLength tail ≤ bytes.length → decode mode bytes = .error e) ∧
    (maxLength < pre.length + rx.length + 5 + modRMLength tail → bytes.length = maxLength →
      decode mode bytes = .error .tooLong) := by
  obtain ⟨on, wrxb, rfl, hno⟩ := flagByte_of_optionalRex hrx
  obtain ⟨q, hscan, hpolicy, hqrex, hqlen⟩ := scanPrefixes_admitted hpre
  have hon : on = true → mode = .long64 := fun h => hmode.resolve_right fun hm => by simp [hno (hprot hm)] at h
  have hrxlen : (flagByte on (4#4 ++ wrxb)).length = on.toNat := by cases on <;> rfl
  have hlength : bytes.length = pre.length + on.toNat + 5 + tail.length := by
    rw [hbytes]
    simp only [List.length_append, hrxlen, List.length_cons, List.length_nil]
  have hany : decodeAny mode bytes = reservedEvex mode { q with rex := on } e tail := by
    have hopens : opensLayout 0x62 = true := rfl
    have hassoc : bytes = pre ++ (flagByte on (4#4 ++ wrxb) ++ 0x62 :: p0 :: p1 :: p2 :: op :: tail) := by simp [hbytes]
    rw [hassoc, decodeAny_of_parts ((hscan _).trans (scanPrefixes_rex q on wrxb hopens _)) hpolicy
      (splitRex_flagByte hon wrxb hopens _), rexByte_isSome]
    exact htake _
  have hadmitted : ¬(mode ≠ .long64 ∧ mode ≠ .prot32) := by tauto
  have hplen : ({ q with rex := on } : Prefixes).length = pre.length + on.toNat := by
    rw [length_with_rex q on hqrex, hqlen]
  obtain ⟨hwhole, hcut⟩ := reservedEvex_eq mode { q with rex := on } e tail
  rw [hrxlen]
  constructor
  · intro hle
    rw [hwhole (by omega) (by omega)] at hany
    simp [decode, hadmitted, hany, he]
  · intro hlt hfull
    rw [hcut (by omega)] at hany
    simp [decode, hadmitted, hany, hfull]

end Sys2Proof
end

section
namespace Sys2Proof.Machine
open Sys2Proof.Safety

theorem fetchFrom_length_le (s : State) (n k : Nat) : (fetchFrom s n k).length ≤ n := by
  induction n generalizing k with
  | zero => exact Nat.le_refl 0
  | succ n ih =>
    rw [fetchFrom]
    split
    · exact Nat.zero_le _
    · exact Nat.succ_le_succ (ih _)

/-- A step over a reserved EVEX pattern behind admitted prefixes (60_exceptions R229, level 1, before its `#UD`). -/
theorem step_of_reservedEvex {s : State} (hl : Launchable s) {pre rx : List Byte}
    (hpre : AdmittedPrefixes s.mode pre) (hrx : OptionalRex rx) (hprot : s.mode = .prot32 → rx = [])
    {p0 p1 p2 op : Byte} {tail : List Byte} {e : DecodeError} (he : e.isUndefinedOpcode = true)
    (htake : ∀ p, takeEvex s.mode p (p0 :: p1 :: p2 :: op :: tail) = reservedEvex s.mode p e tail)
    (hbytes : fetchBytes s = pre ++ rx ++ [0x62, p0, p1, p2, op] ++ tail) :
    (pre.length + rx.length + 5 + modRMLength tail ≤ (fetchBytes s).length → step s = .fault .invalidOpcode) ∧
    (15 < pre.length + rx.length + 5 + modRMLength tail → (fetchBytes s).length = 15 →
      step s = .refused (.undecodable .tooLong)) := by
  have hne : e ≠ .truncated := by
    rintro rfl
    cases he
  obtain ⟨hwhole, hlong⟩ :=
    decode_of_reservedEvex hl.1 hpre hrx hprot hne htake hbytes (fetchFrom_length_le s maxLength 0)
  refine ⟨fun hle => ?_, fun hlt hfull => step_of_decode_error hl (hlong hlt hfull)⟩
  rw [step_of_decode_error hl (hwhole hle), undecodable, if_pos he]
  rfl

end Sys2Proof.Machine
end

section
/-! PROOFS. The effective address as integer arithmetic (30_encoding R134 to R140), what depends on an instruction's own
length, and the reserved EVEX forms (R149, R150). -/

namespace Sys2Proof.Machine

open Sys2Proof.Safety

/-! ## The effective address -/

/-- A displacement as an integer (R139, R140). -/
def dispInt (n : Nat) : Disp → Int
  | .none => 0
  | .disp8 b => n * b.toInt
  | .disp32 d => d.toInt

/-- A scaled index as an integer (R134). -/
def indexInt (s : State) (scale : Fin 4) : Option (Fin 16) → Int
  | none => 0
  | some i => (readX s i).toNat * 2 ^ scale.val

/-- The sum that R134 gives for each shape, before it is cut to the address size. -/
def addressInt (s : State) (n len : Nat) : MemOperand → Int
  | .base r d => (readX s r).toNat + dispInt n d
  | .sib scale i r d => (readX s r).toNat + indexInt s scale i + dispInt n d
  | .sibNoBase scale i d => indexInt s scale i + d.toInt
  | .pcRelative d => s.pc.toNat + len + d.toInt
  | .absolute d => d.toInt

theorem dispValue_eq (n : Nat) (d : Disp) : dispValue n d = BitVec.ofInt 64 (dispInt n d) := by
  cases d with
  | none => rfl
  | disp8 b =>
    rw [dispInt, mul_comm, BitVec.ofInt_mul, BitVec.ofInt_natCast]
    rfl
  | disp32 d => rfl

theorem indexValue_eq (s : State) (scale : Fin 4) (i : Option (Fin 16)) :
    indexValue s scale i = BitVec.ofInt 64 (indexInt s scale i) := by
  cases i with
  | none => rfl
  | some i =>
    have hcast : indexInt s scale (some i) = ((readX s i).toNat * 2 ^ scale.val : Nat) := by simp [indexInt]
    rw [hcast, BitVec.ofInt_natCast, indexValue]
    apply BitVec.eq_of_toNat_eq
    rw [BitVec.toNat_shiftLeft, Nat.shiftLeft_eq, BitVec.toNat_ofNat]

/-- Words add as the integers they read as do; relative addressing is `Long64`'s (R136). -/
theorem effectiveAddress_eq {s : State} {m : MemOperand} (h : ∀ d, m = .pcRelative d → s.mode = .long64)
    (narrow : Bool) (n len : Nat) :
    effectiveAddress s narrow n len m = cutAddress narrow (BitVec.ofInt 64 (addressInt s n len m)) := by
  have register : ∀ v : Qword, BitVec.ofInt 64 v.toNat = v := fun v => by
    rw [BitVec.ofInt_natCast, BitVec.ofNat_toNat, BitVec.setWidth_eq]
  have signed : ∀ d : BitVec 32, BitVec.ofInt 64 d.toInt = d.signExtend 64 := fun _ => rfl
  cases m with
  | base r d => simp only [effectiveAddress, addressInt, BitVec.ofInt_add, register, dispValue_eq]
  | sib scale i r d =>
    simp only [effectiveAddress, addressInt, BitVec.ofInt_add, register, dispValue_eq, indexValue_eq]
  | sibNoBase scale i d => simp only [effectiveAddress, addressInt, BitVec.ofInt_add, signed, indexValue_eq]
  | pcRelative d =>
    have hlen : BitVec.ofInt 64 len = BitVec.ofNat 64 len := BitVec.ofInt_natCast 64 len
    simp only [effectiveAddress, addressInt, BitVec.ofInt_add, register, signed, hlen, pcPlus_long64 s len (h d rfl)]
  | absolute d => rfl

/-- Cutting to the address size is a remainder of the integer. -/
theorem cutAddress_ofInt (narrow : Bool) (z : Int) :
    ((cutAddress narrow (BitVec.ofInt 64 z)).toNat : Int) = z % (if narrow then 2 ^ 32 else 2 ^ 64) := by
  rw [cutAddress_toNat, BitVec.toNat_ofInt]
  cases narrow <;> simp <;> omega

/-- The address size is 32 bits in `Prot32` and with `67` (R138). -/
theorem narrowAddress_iff {s : State} (hmode : s.mode = .long64 ∨ s.mode = .prot32) (p : Prefixes) :
    narrowAddress s p = true ↔ s.mode = .prot32 ∨ p.addrsize = true := by
  obtain hm | hm := hmode <;> simp [narrowAddress, hm]

theorem placeOf_ea {s : State} (hmode : s.mode = .long64 ∨ s.mode = .prot32) {m : MemOperand}
    (h : ∀ d, m = .pcRelative d → s.mode = .long64) (p : Prefixes) (n len : Nat) :
    ((placeOf s p n len m).ea.toNat : Int) =
      addressInt s n len m % (if s.mode = .prot32 ∨ p.addrsize = true then 2 ^ 32 else 2 ^ 64) := by
  have hea : (placeOf s p n len m).ea = effectiveAddress s (narrowAddress s p) n len m := rfl
  rw [hea, effectiveAddress_eq h, cutAddress_ofInt]
  simp only [narrowAddress_iff hmode]

/-! ## The length of an instruction -/

/-- Only relative addressing counts from the instruction's end (R136). -/
theorem placeOf_congr_length {m : MemOperand} (h : ∀ d, m ≠ .pcRelative d) (s : State) (p : Prefixes)
    (n len len' : Nat) : placeOf s p n len m = placeOf s p n len' m := by
  cases m with
  | pcRelative d => exact absurd rfl (h d)
  | base r d | sib scale i r d | sibNoBase scale i d | absolute d => rfl

theorem vexSource_congr_length {VL : Nat} {o : VexOperands} (h : ∀ d, o.src ≠ .mem (.pcRelative d)) (len len' : Nat)
    (s : State) : vexSource VL o len s = vexSource VL o len' s := by
  obtain ⟨pfx, d, s1, src⟩ := o
  cases src with
  | reg r => rfl
  | mem m =>
    have hm : ∀ d, m ≠ .pcRelative d := fun d e => h d (congrArg _ e)
    simp only [vexSource, loadFull, placeOf_congr_length hm s pfx 1 len len']

/-- The length of a VEX form is seen in `pc` alone, where its operand is not relative. -/
theorem runVex_congr_length (N VL : Nat) (flag : Feature) {o : VexOperands} (h : ∀ d, o.src ≠ .mem (.pcRelative d))
    (len len' : Nat) (s : State) :
    runVex N VL flag o len s = mapNext (fun t => { t with pc := pcPlus s len }) (runVex N VL flag o len' s) := by
  rw [runVex_eq_answer, runVex_eq_answer, vexSource_congr_length h len len']
  exact answer_mapNext _ _ fun _ => rfl

/-! ## Reserved EVEX forms -/

/-- A reserved EVEX form is `#UD` in an admitted state, whatever else holds (60_exceptions R230). -/
theorem exec_of_reservedForm {i : Instr} {broadcast : Bool} {o : EvexOperands} {s : State}
    (hs : shapeOf i = .evex broadcast o) (hl : Launchable s) (h : evexReservedForm broadcast o = true) :
    exec i s = .fault .invalidOpcode := by
  have hcheck : checkEvex (rowFeatures i) broadcast o s = some (.fault .invalidOpcode) := by
    rw [checkEvex, (launchStop_none_iff s).2 hl, h]
    exact ite_self _
  rw [exec_of_evex hs, runEvex, hcheck]
  rfl

end Sys2Proof.Machine
end

section
/-! PROOFS. The statements of 30_encoding settled. -/

namespace Sys2Proof.Proofs

open Sys2Proof.Machine Sys2Proof.Safety

/-- Settles O45: each part of the decoder reads back what the encoder wrote, row by row. -/
theorem decodeOfEncode : Obligations.DecodeOfEncode := fun _ _ rest h => decode_encode h rest

/-- Settles O6: the intrinsics are `PMAXS` and `MASKED`, given by their lanes. -/
theorem intrinsicsLaneByLane : Obligations.IntrinsicsLaneByLane := by
  intro N _ VL _ s a b k j hj
  refine ⟨lane_pmaxs N VL a b j hj, ?_, ?_⟩
  · rw [intrinsicMaskMax, lane_maskMerge N VL _ _ k true false j hj, lane_pmaxs N VL a b j hj]
    rfl
  · rw [intrinsicMaskzMax, lane_maskMerge N VL _ _ k true true j hj, lane_pmaxs N VL a b j hj]
    rfl

/-- Settles O25: each of the three is a reserved form. -/
theorem reservedEvexFormsUndefined : Obligations.ReservedEvexFormsUndefined := by
  intro i broadcast o s hs hl
  refine ⟨fun hb h => ?_, fun hb h ⟨r, hr⟩ => ?_, fun hz haaa => ?_⟩
  · exact exec_of_reservedForm hs hl (by simp [evexReservedForm, hb, h])
  · exact exec_of_reservedForm hs hl (by simp [evexReservedForm, h, hr])
  · exact exec_of_reservedForm hs hl (by simp [evexReservedForm, isMasked, hz, haaa])

/-- Settles O27: the reserved bits decide before the opcode byte. -/
theorem reservedEvexBitsFault : Obligations.ReservedEvexBitsFault := by
  intro s pre rx p0 p1 p2 op tail hl hpre hrx hprot hmode hreserved hbytes
  exact step_of_reservedEvex hl hpre hrx hprot rfl (fun p => takeEvex_reservedBits hmode hreserved p op tail) hbytes

/-- Settles O28: the family's opcodes have a row at `L'L = 00b` and none at `11b`. -/
theorem reservedVectorLengthFaults : Obligations.ReservedVectorLengthFaults := by
  intro s pre rx p0 p1 p2 op tail hl hpre hrx hprot hmode h02 h12 hpp hll hrow hbytes
  have htake := fun p => takeEvex_reservedLength hmode h02 h12 hpp hll hrow p tail
  exact step_of_reservedEvex hl hpre hrx hprot rfl htake hbytes

/-- Settles O43: the place's address is the integer sum of its shape, cut to the address size. -/
theorem effectiveAddressAsInteger : Obligations.EffectiveAddressAsInteger := by
  intro s p n len r i sc b d hmode asz ea x
  have direct : ∀ m, (∀ d, m ≠ .pcRelative d) → ea m = addressInt s n len m % asz :=
    fun m hm => placeOf_ea hmode (fun d e => absurd e (hm d)) p n len
  refine ⟨⟨?_, ?_, ?_, ?_, ?_, ?_, ?_, ?_, ?_, ?_, ?_, fun hm => placeOf_ea hmode (fun _ _ => hm) p n len, ?_⟩,
      fun m => ⟨narrowAddress_iff hmode p, fun g hg => by simp [placeOf, hg], fun hnone => ?segment⟩⟩
  case segment => cases m <;> simp [placeOf, hnone, defaultSegment, Fin.ext_iff]
  all_goals exact (direct _ (by nofun)).trans (by simp [addressInt, dispInt, indexInt, x])

/-- Settles O48: behind the same legacy bytes and REX the layouts decide, and none of theirs looks at this `W`. -/
theorem ignoredWidthBit : Obligations.IgnoredWidthBit := by
  intro mode pre rx b1 b2 p0 p1 p2 op rest hpre hrx
  have same : ∀ {c : Byte} {t t' : List Byte}, opensLayout c = true → t.length = t'.length →
      (∀ p rex, takeLayout mode p rex (c :: t) = takeLayout mode p rex (c :: t')) →
      decode mode (pre ++ rx ++ c :: t) = decode mode (pre ++ rx ++ c :: t') := fun hc hlen h =>
    decode_congr (by simp [hlen]) (decodeAny_congr hpre hrx hc h)
  simp only [List.append_assoc (pre ++ rx), List.cons_append, List.nil_append]
  exact ⟨same rfl (by simp) fun p _ => takeVex3_flipTop mode p b1 b2 op rest,
    fun hop => same rfl (by simp) fun p _ => takeEvex_flipTop hop mode p p0 p1 p2 rest⟩

/-- Settles O49: a VEX form's own length is seen in `pc` alone, unless its operand counts from the instruction's end. -/
theorem shortVexMeansLongVex : Obligations.ShortVexMeansLongVex := fun _ s h =>
  ⟨runVex_congr_length 16 128 .avx h _ _ s, runVex_congr_length 16 256 .avx2 h _ _ s⟩

/-- Settles O47: the decoder, run on the six words. -/
theorem knownWordsDecode : Obligations.KnownWordsDecode := ⟨rfl, rfl, rfl, rfl, rfl, rfl⟩

end Sys2Proof.Proofs
end

section
/-! PROOFS. A ready EVEX form with a readable second source completes, and its destination holds the masked lane maxima
(42 R190 to R196, 43 R200 to R206). -/

namespace Sys2Proof.Machine

open Sys2Proof.Safety

/-- One element in every lane is the one value with those lanes (00_scope R20). -/
theorem bcast_eq_of_lanes {N VL : Nat} (hpos : 0 < N) (hd : N ∣ VL) {e : BitVec N} {b : BitVec VL}
    (h : ∀ j < VL / N, lane N b j = e) : bcast N VL e = b :=
  eq_of_lanes_eq hpos hd fun j hj => (lane_bcast N VL e hj).trans (h j hj).symm

/-- The second source of rows 11 to 22, where it can be read. -/
theorem evexSource_of_sourceIs {N VL : Nat} (hpos : 0 < N) (hN : 8 ∣ N) (hd : N ∣ VL) {o : EvexOperands} {len : Nat}
    {s : State} {b : BitVec VL} (h : EvexSourceIs N VL o len s b) : evexSource N VL o len s = .ok b := by
  cases hs : o.src with
  | reg r =>
    simp only [EvexSourceIs, hs] at h
    simp only [evexSource, hs, h]
  | mem m =>
    cases hb : o.b with
    | false =>
      simp only [EvexSourceIs, hs, hb, Bool.false_eq_true, if_false] at h
      obtain ⟨haccepted, hoperand⟩ := h
      obtain ⟨bytes, hread, hvalue⟩ := memRead_of_operandIs s _ b .free (isMasked o) (byteActive N o s)
        (Nat.mul_div_cancel' (hN.trans hd)) hoperand (alignmentStop_free _ _ _ haccepted)
      simp only [evexSource, hs, hb, Bool.false_eq_true, if_false, hread, hvalue]
    | true =>
      simp only [EvexSourceIs, hs, hb, if_true] at h
      obtain ⟨e, hlanes, haccepted, hoperand⟩ := h
      obtain ⟨bytes, hread, hvalue⟩ := memRead_of_operandIs s _ e .free (isMasked o) (fun _ => anyActive N VL o s)
        (Nat.mul_div_cancel' hN) hoperand (alignmentStop_free _ _ _ haccepted)
      simp only [evexSource, hs, hb, if_true, hread, hvalue, bcast_eq_of_lanes hpos hd hlanes]

theorem elementBits_pos_of_evex {i : Instr} {broadcast : Bool} {o : EvexOperands} (hs : shapeOf i = .evex broadcast o) :
    0 < elementBits i :=
  Nat.pos_of_ne_zero fun h => absurd (lanes_pos hs) (by rw [h, Nat.div_zero]; exact lt_irrefl 0)

theorem completesEvex_of_shape {N VL : Nat} {broadcast : Bool} {mk : EvexOperands → Instr}
    (shape : ∀ o, shapeOf (mk o) = .evex broadcast o) (element : ∀ o, elementBits (mk o) = N)
    (width : ∀ o, vectorLength (mk o) = VL) : CompletesEvex N VL mk := by
  intro o s b hready hsource
  obtain rfl := element o
  obtain rfl := width o
  obtain ⟨hN, hd⟩ := evex_sizes (shape o)
  refine ⟨_, ?_, evexAfter_result (vectorLength_le (mk o)) o (mk o).length s fun _ _ _ => rfl⟩
  rw [exec_of_evex (shape o), runEvex_next_iff]
  exact ⟨checkEvex_of_ready (shape o) hready, b,
    evexSource_of_sourceIs (elementBits_pos_of_evex (shape o)) hN hd hsource, rfl⟩

end Sys2Proof.Machine
end

section
/-! PROOFS. The statement of 42_evex_bw settled. -/

namespace Sys2Proof.Proofs

open Sys2Proof.Machine Sys2Proof.Safety

/-- Settles O10: the six rows differ in their element size, vector length and own length. -/
theorem evexByteWordFormsComplete : Obligations.EvexByteWordFormsComplete := by
  refine ⟨?_, ?_, ?_, ?_, ?_, ?_⟩ <;> exact completesEvex_of_shape (fun _ => rfl) (fun _ => rfl) fun _ => rfl

end Sys2Proof.Proofs
end

section
/-! PROOFS. The statement of 43_evex_dq settled. -/

namespace Sys2Proof.Proofs

open Sys2Proof.Machine Sys2Proof.Safety

/-- Settles O11: the dword and qword rows have the shape that allows a broadcast (43 R200), and `completesEvex_of_shape`
holds of that shape too, since its second source may be one element in every lane (`evexSource_of_sourceIs`). -/
theorem evexDwordQwordFormsComplete : Obligations.EvexDwordQwordFormsComplete := by
  refine ⟨?vpmaxsd128, ?vpmaxsd256, ?vpmaxsd512, ?vpmaxsq128, ?vpmaxsq256, ?vpmaxsq512⟩ <;>
    exact completesEvex_of_shape (broadcast := true) (fun _ => rfl) (fun _ => rfl) fun _ => rfl

end Sys2Proof.Proofs
end

section
/-! PROOFS. The checks of 60_exceptions R230 in one order for every layout, and the outcomes that they alone decide. -/

namespace Sys2Proof.Machine

open Sys2Proof.Safety

/-! ## The checks, whatever the layout -/

/-- A condition of `#UD` of the form (R212 to R217), asked in the order in which its layout's check asks it. -/
def undefinedForm (i : Instr) (s : State) : Bool :=
  match shapeOf i with
  | .mmx o => o.pfx.lock || !hasAll s.features (rowFeatures i) || cr0Em s
  | .sse o => o.pfx.lock || !hasAll s.features (rowFeatures i) || cr0Em s || !cr4Osfxsr s
  | .vex o => illegalBeforeVex o.pfx || !cr4Osxsave s || !xcr0Avx s || !hasAll s.features (rowFeatures i)
  | .evex broadcast o =>
    illegalBeforeVex o.pfx || evexReservedForm broadcast o || !cr4Osxsave s || !xcr0Avx s || !xcr0Avx512 s ||
      !hasAll s.features (rowFeatures i)

/-- What stops a form once no condition of `#UD` holds: for row 1 the refusal of R225, `#NM`, and a pending x87
exception (R220); for every other row `#NM` alone. -/
def laterStop (i : Instr) (s : State) : Option Stop :=
  match shapeOf i with
  | .mmx _ =>
    if !cr4Osfxsr s then some (.refuse .mmxWithoutOsfxsr)
    else if cr0Ts s then some (.fault .deviceNotAvailable)
    else if x87Pending s then (if cr0Ne s then some (.fault .mathFault) else some (.refuse .externalMathError))
    else none
  | _ => if cr0Ts s then some (.fault .deviceNotAvailable) else none

/-- What stops an instruction before it reads its operands. -/
def formStop (i : Instr) (s : State) : Option Stop :=
  match launchStop s with
  | some r => some (.refuse r)
  | none => if undefinedForm i s then some (.fault .invalidOpcode) else laterStop i s

theorem checkMmx_eq_formStop {i : Instr} {o : MmxOperands} (hs : shapeOf i = .mmx o) (s : State) :
    checkMmx o.pfx s = formStop i s := by
  have hf := rowFeatures_of_mmx hs
  rw [checkMmx, formStop]
  cases launchStop s with
  | some r => rfl
  | none => simp only [undefinedForm, laterStop, hs, hf, hasAll_one, Bool.or_eq_true, ite_or]

theorem checkSse_eq_formStop {i : Instr} {o : SseOperands} {flag : Feature} (hs : shapeOf i = .sse o)
    (hf : rowFeatures i = [flag]) (s : State) : checkSse flag o.pfx s = formStop i s := by
  rw [checkSse, formStop]
  cases launchStop s with
  | some r => rfl
  | none => simp only [undefinedForm, laterStop, hs, hf, hasAll_one, Bool.or_eq_true, ite_or]

theorem checkVex_eq_formStop {i : Instr} {o : VexOperands} {flag : Feature} (hs : shapeOf i = .vex o)
    (hf : rowFeatures i = [flag]) (s : State) : checkVex flag o.pfx s = formStop i s := by
  rw [checkVex, formStop]
  cases launchStop s with
  | some r => rfl
  | none => simp only [undefinedForm, laterStop, hs, hf, hasAll_one, Bool.or_eq_true, ite_or]

theorem checkEvex_eq_formStop {i : Instr} {broadcast : Bool} {o : EvexOperands} (hs : shapeOf i = .evex broadcast o)
    (s : State) : checkEvex (rowFeatures i) broadcast o s = formStop i s := by
  rw [checkEvex, formStop]
  cases launchStop s with
  | some r => rfl
  | none => simp only [undefinedForm, laterStop, hs, Bool.or_eq_true, ite_or]

/-- The check that an instruction runs is the one above. -/
theorem exists_running_formStop (i : Instr) : ∃ w, ∃ run : Running i w, ∀ s, run.check s = formStop i s := by
  cases hs : shapeOf i with
  | mmx o => exact ⟨_, runningMmx hs, checkMmx_eq_formStop hs⟩
  | sse o =>
    obtain ⟨flag, hf, hrun⟩ := exec_of_sse hs
    exact ⟨_, runningSse hs hf hrun, checkSse_eq_formStop hs hf⟩
  | vex o =>
    obtain ⟨flag, hf, hrun⟩ := exec_of_vex hs
    exact ⟨_, runningVex hs hf hrun, checkVex_eq_formStop hs hf⟩
  | evex broadcast o => exact ⟨_, runningEvex hs, checkEvex_eq_formStop hs⟩

/-! ## The conditions of the checks -/

theorem undefinedForm_iff (i : Instr) (s : State) : undefinedForm i s = true ↔ Undefined i s := by
  cases hs : shapeOf i with
  | mmx o =>
    simp only [undefinedForm, Undefined, hs, Bool.or_eq_true, Bool.not_eq_true']
    tauto
  | sse o =>
    simp only [undefinedForm, Undefined, hs, Bool.or_eq_true, Bool.not_eq_true']
    tauto
  | vex o =>
    simp only [undefinedForm, Undefined, hs, Bool.or_eq_true, Bool.not_eq_true']
    tauto
  | evex broadcast o =>
    simp only [undefinedForm, Undefined, hs, Bool.or_eq_true, Bool.not_eq_true', ← evexReservedForm_false_iff,
      Bool.not_eq_false]
    tauto

/-- A form is decodable where no condition of `#UD` holds and row 1 is not refused (R225). -/
theorem decodable_iff (i : Instr) (s : State) :
    Decodable i s ↔ ¬Undefined i s ∧ ∀ o, shapeOf i = .mmx o → cr4Osfxsr s = true := by
  cases hs : shapeOf i with
  | mmx o =>
    simp only [Decodable, Undefined, hs, not_or, Bool.not_eq_false, Bool.not_eq_true]
    exact ⟨fun ⟨hf, hlock, hem, hos⟩ => ⟨⟨hf, hlock, hem⟩, fun _ _ => hos⟩,
      fun ⟨⟨hf, hlock, hem⟩, hos⟩ => ⟨hf, hlock, hem, hos o rfl⟩⟩
  | sse o => simp [Decodable, Undefined, hs]
  | vex o => simp [Decodable, Undefined, hs]
  | evex broadcast o => simp [Decodable, Undefined, hs]

theorem decodable_mmx_iff {i : Instr} {o : MmxOperands} (hs : shapeOf i = .mmx o) (s : State) :
    Decodable i s ↔ ¬Undefined i s ∧ cr4Osfxsr s = true := by
  simp [decodable_iff, hs]

/-! ## The launch state -/

section Launch

variable {s : State}

theorem launchStop_modeNotAdmitted (h64 : s.mode ≠ .long64) (h32 : s.mode ≠ .prot32) :
    launchStop s = some .modeNotAdmitted :=
  if_pos ⟨h64, h32⟩

variable (hmode : s.mode = .long64 ∨ s.mode = .prot32)

include hmode

theorem launchStop_of_mode :
    launchStop s =
      if eflagsTf s then some .singleStep
      else if breakpointOn s then some .breakpointEnabled
      else if !featuresClosed s.features then some .featuresNotClosed
      else none :=
  if_neg fun ⟨h64, h32⟩ => hmode.elim h64 h32

theorem launchStop_singleStep (htf : eflagsTf s = true) : launchStop s = some .singleStep := by
  rw [launchStop_of_mode hmode, if_pos htf]

theorem launchStop_breakpointEnabled (htf : eflagsTf s = false) (hbreak : breakpointOn s = true) :
    launchStop s = some .breakpointEnabled := by
  simp [launchStop_of_mode hmode, htf, hbreak]

theorem launchStop_featuresNotClosed (htf : eflagsTf s = false) (hbreak : breakpointOn s = false)
    (hopen : featuresClosed s.features = false) : launchStop s = some .featuresNotClosed := by
  simp [launchStop_of_mode hmode, htf, hbreak, hopen]

end Launch

/-! ## The stop of an instruction -/

theorem formStop_of_launchStop {s : State} {r : Refusal} (h : launchStop s = some r) (i : Instr) :
    formStop i s = some (.refuse r) := by
  rw [formStop, h]

/-- `#UD` comes first among the stops of an admitted state (R230). -/
theorem formStop_of_undefined {i : Instr} {s : State} (hl : Launchable s) (h : Undefined i s) :
    formStop i s = some (.fault .invalidOpcode) := by
  rw [formStop, (launchStop_none_iff s).2 hl]
  exact if_pos ((undefinedForm_iff i s).2 h)

theorem formStop_of_defined {i : Instr} {s : State} (hl : Launchable s) (h : ¬Undefined i s) :
    formStop i s = laterStop i s := by
  rw [formStop, (launchStop_none_iff s).2 hl]
  exact if_neg fun hu => h ((undefinedForm_iff i s).1 hu)

/-- The refusals of a launch state (R213, R240, R247). -/
def LaunchRefusal (r : Refusal) : Prop :=
  r = .modeNotAdmitted ∨ r = .singleStep ∨ r = .breakpointEnabled ∨ r = .featuresNotClosed

theorem launchStop_some {s : State} {r : Refusal} (h : launchStop s = some r) : LaunchRefusal r := by
  simp only [launchStop] at h
  split_ifs at h <;> cases h <;> simp [LaunchRefusal]

/-- Where an instruction stops before its operands, the launch state is refused, or a condition of `#UD` holds, or
neither and it is one of the later stops. -/
theorem formStop_some {i : Instr} {s : State} {e : Stop} (h : formStop i s = some e) :
    (∃ r, LaunchRefusal r ∧ e = .refuse r) ∨ Launchable s ∧ Undefined i s ∧ e = .fault .invalidOpcode ∨
      Launchable s ∧ ¬Undefined i s ∧ laterStop i s = some e := by
  cases hlaunch : launchStop s with
  | some r =>
    rw [formStop_of_launchStop hlaunch] at h
    cases h
    exact .inl ⟨r, launchStop_some hlaunch, rfl⟩
  | none =>
    have hl := (launchStop_none_iff s).1 hlaunch
    by_cases hu : Undefined i s
    · rw [formStop_of_undefined hl hu] at h
      cases h
      exact .inr (.inl ⟨hl, hu, rfl⟩)
    · exact .inr (.inr ⟨hl, hu, formStop_of_defined hl hu ▸ h⟩)

/-! ## The later stops -/

theorem laterStop_of_mmx {i : Instr} {o : MmxOperands} (hs : shapeOf i = .mmx o) (s : State) :
    laterStop i s =
      if !cr4Osfxsr s then some (.refuse .mmxWithoutOsfxsr)
      else if cr0Ts s then some (.fault .deviceNotAvailable)
      else if x87Pending s then (if cr0Ne s then some (.fault .mathFault) else some (.refuse .externalMathError))
      else none := by
  rw [laterStop, hs]

theorem laterStop_of_vector {i : Instr} (hs : ∀ o, shapeOf i ≠ .mmx o) (s : State) :
    laterStop i s = if cr0Ts s then some (.fault .deviceNotAvailable) else none := by
  cases h : shapeOf i with
  | mmx o => exact absurd h (hs o)
  | _ => simp only [laterStop, h]

theorem laterStop_ne_undefined (i : Instr) (s : State) : laterStop i s ≠ some (.fault .invalidOpcode) := by
  cases hs : shapeOf i with
  | mmx o =>
    rw [laterStop_of_mmx hs]
    split_ifs <;> simp
  | _ =>
    rw [laterStop_of_vector (by simp [hs])]
    split_ifs <;> simp

/-- `#NM` comes from `CR0.TS` alone, after row 1's refusal (R219, R225). -/
theorem laterStop_notAvailable_iff (i : Instr) (s : State) :
    laterStop i s = some (.fault .deviceNotAvailable) ↔
      (∀ o, shapeOf i = .mmx o → cr4Osfxsr s = true) ∧ cr0Ts s = true := by
  cases hs : shapeOf i with
  | mmx o =>
    rw [laterStop_of_mmx hs]
    split_ifs <;> simp_all
  | _ =>
    rw [laterStop_of_vector (by simp [hs])]
    split_ifs <;> simp_all

/-- No row but the first has a later stop other than `#NM` (R220, R225). -/
theorem laterStop_ne_of_not_mmx {i : Instr} {s : State} {e : Stop} (hi : ∀ o, i ≠ .pmaxswMmx o)
    (he : e ≠ .fault .deviceNotAvailable) : laterStop i s ≠ some e := by
  have hs : ∀ o, shapeOf i ≠ .mmx o := by
    intro o h
    cases i <;> cases h
    exact hi o rfl
  rw [laterStop_of_vector hs]
  split_ifs <;> simp [he.symm]

section RowOne

variable {i : Instr} {o : MmxOperands} (hs : shapeOf i = .mmx o) (s : State)

include hs

theorem laterStop_withoutOsfxsr_iff :
    laterStop i s = some (.refuse .mmxWithoutOsfxsr) ↔ cr4Osfxsr s = false := by
  rw [laterStop_of_mmx hs]
  split_ifs <;> simp_all

/-- A pending x87 exception is answered once `CR4.OSFXSR` and `CR0.TS` let row 1 pass (R220, R225, R230). -/
theorem laterStop_mathFault_iff :
    laterStop i s = some (.fault .mathFault) ↔
      cr4Osfxsr s = true ∧ cr0Ts s = false ∧ x87Pending s = true ∧ cr0Ne s = true := by
  rw [laterStop_of_mmx hs]
  split_ifs <;> simp_all

theorem laterStop_externalMathError_iff :
    laterStop i s = some (.refuse .externalMathError) ↔
      cr4Osfxsr s = true ∧ cr0Ts s = false ∧ x87Pending s = true ∧ cr0Ne s = false := by
  rw [laterStop_of_mmx hs]
  split_ifs <;> simp_all

end RowOne

/-! ## The outcomes that the checks alone decide -/

/-- The stops that come from no launch state and from no operand. -/
def CheckStop : Stop → Prop
  | .fault f => CheckFault f
  | .refuse r => r = .mmxWithoutOsfxsr ∨ r = .externalMathError

theorem formStop_undefined_iff (i : Instr) (s : State) :
    formStop i s = some (.fault .invalidOpcode) ↔ Launchable s ∧ Undefined i s := by
  refine ⟨fun h => ?_, fun ⟨hl, hu⟩ => formStop_of_undefined hl hu⟩
  obtain ⟨r, -, hr⟩ | ⟨hl, hu, -⟩ | ⟨-, -, hlater⟩ := formStop_some h
  · cases hr
  · exact ⟨hl, hu⟩
  · exact absurd hlater (laterStop_ne_undefined i s)

/-- A check's stop other than `#UD` is a later stop of an admitted state without a condition of `#UD` (R230). -/
theorem formStop_later_iff {i : Instr} {s : State} {e : Stop} (he : CheckStop e) (hne : e ≠ .fault .invalidOpcode) :
    formStop i s = some e ↔ Launchable s ∧ ¬Undefined i s ∧ laterStop i s = some e := by
  refine ⟨fun h => ?_, fun ⟨hl, hu, h⟩ => (formStop_of_defined hl hu).trans h⟩
  obtain ⟨r, hr, rfl⟩ | ⟨-, -, rfl⟩ | hlater := formStop_some h
  · simp only [CheckStop] at he
    obtain rfl | rfl := he <;> simp [LaunchRefusal] at hr
  · exact absurd rfl hne
  · exact hlater

theorem alignmentStop_error {s : State} {pl : Place} {n : Nat} {rule : AlignRule} {r : Refusal}
    (h : alignmentStop s pl n rule = .error r) : r = .unalignedSegmentBase ∨ r = .vectorAlignmentCheck := by
  cases rule <;> simp only [alignmentStop] at h <;> split_ifs at h <;> cases h <;> simp

theorem alignmentStop_fault {s : State} {pl : Place} {n : Nat} {rule : AlignRule} {f : Fault}
    (h : alignmentStop s pl n rule = .ok (some f)) : f = .generalProtection ∨ f = .alignmentCheck := by
  cases rule <;> simp only [alignmentStop] at h <;> split_ifs at h <;> cases h <;> simp

/-- The read of an operand answers none of the checks' stops. -/
theorem readStop_not_checkStop {s : State} {pl : Place} {n : Nat} {rule : AlignRule} {counted : List Nat} {e : Stop}
    (h : ReadStop s pl n rule counted e) : ¬CheckStop e := by
  cases h with
  | address k _ _ =>
    unfold badAddressFault
    split <;> simp [CheckStop, CheckFault]
  | alignment r refused => obtain rfl | rfl := alignmentStop_error refused <;> simp [CheckStop]
  | levelSix al f accepted holds =>
    obtain rfl | hpage := holds
    · obtain rfl | rfl := alignmentStop_fault accepted <;> simp [CheckStop, CheckFault]
    · obtain ⟨_, _, _, _, rfl⟩ := operandPageFault_report hpage
      simp [CheckStop, CheckFault]
  | region k _ r lies =>
    simp only [byteRegion] at lies
    split at lies
    next => cases lies
    next =>
      obtain ⟨kind, -, rfl⟩ := Option.map_eq_some_iff.1 lies
      cases kind <;> simp [CheckStop, regionRefusal]

theorem stop_outcome_inj {e e' : Stop} (h : e.outcome = e'.outcome) : e = e' := by
  cases e <;> cases e' <;> cases h <;> rfl

/-- What stops an instruction before its operands is its outcome. -/
theorem exec_of_formStop {i : Instr} {s : State} {e : Stop} (h : formStop i s = some e) : exec i s = e.outcome := by
  obtain ⟨w, run, hcheck⟩ := exists_running_formStop i
  rw [run.exec_eq, hcheck, h]
  rfl

/-- An instruction answers a check's stop just where its check does: no second source answers one. -/
theorem exec_checkStop_iff {i : Instr} {s : State} {e : Stop} (he : CheckStop e) :
    exec i s = e.outcome ↔ formStop i s = some e := by
  refine ⟨fun h => ?_, exec_of_formStop⟩
  cases hstop : formStop i s with
  | some e' => exact congrArg some (stop_outcome_inj ((exec_of_formStop hstop).symm.trans h))
  | none =>
    obtain ⟨w, run, hcheck⟩ := exists_running_formStop i
    rw [run.exec_eq, hcheck, hstop] at h
    cases ho : operandOf i s with
    | none =>
      rw [sourceOf_none ho] at h
      exact absurd h.symm (stop_not_next e _)
    | some op =>
      rw [sourceOf_some ho] at h
      cases hread : operandRead i s op with
      | ok bytes =>
        rw [hread] at h
        exact absurd h.symm (stop_not_next e _)
      | error e' =>
        rw [hread] at h
        obtain rfl : e' = e := stop_outcome_inj h
        exact absurd he (readStop_not_checkStop (memRead_error hread))

theorem exec_undefined_iff (i : Instr) (s : State) :
    exec i s = .fault .invalidOpcode ↔ Launchable s ∧ Undefined i s :=
  (exec_checkStop_iff (e := .fault .invalidOpcode) (.inl rfl)).trans (formStop_undefined_iff i s)

/-- The later stops, too, are answered just where they hold. -/
theorem exec_later_iff {i : Instr} {s : State} {e : Stop} (he : CheckStop e) (hne : e ≠ .fault .invalidOpcode) :
    exec i s = e.outcome ↔ Launchable s ∧ ¬Undefined i s ∧ laterStop i s = some e :=
  (exec_checkStop_iff he).trans (formStop_later_iff he hne)

theorem exec_of_launchStop {s : State} {r : Refusal} (h : launchStop s = some r) (i : Instr) :
    exec i s = .refused r :=
  exec_of_formStop (formStop_of_launchStop h i)

end Sys2Proof.Machine
end

section
/-! PROOFS. Which bits of CR0, CR4 and XCR0 an instruction reads (10_state R45 to R47), and what is reported where two
conditions of priority level 6 hold (60_exceptions R229). -/

namespace Sys2Proof.Machine

open Sys2Proof.Safety

/-! ## Conditions of `#UD` -/

theorem undefined_of_missing {i : Instr} {s : State} {f : Feature} (hf : f ∈ rowFeatures i)
    (hmissing : hasFeature s.features f = false) : Undefined i s :=
  .inl (List.all_eq_false.2 ⟨f, hf, by simp [hmissing]⟩)

/-- LOCK is a condition of `#UD` in every layout (R217). -/
theorem undefined_of_lock {i : Instr} (h : (prefixesOf i).lock = true) (s : State) : Undefined i s := by
  refine .inr ?_
  cases hs : shapeOf i with
  | mmx o =>
    simp only [prefixesOf, hs] at h
    exact .inl h
  | sse o =>
    simp only [prefixesOf, hs] at h
    exact .inl h
  | vex o =>
    simp only [prefixesOf, hs] at h
    exact .inl (by simp [illegalBeforeVex, h])
  | evex broadcast o =>
    simp only [prefixesOf, hs] at h
    exact .inl (by simp [illegalBeforeVex, h])

/-- 66, F2, F3 and REX are conditions of `#UD` in the VEX and EVEX layouts (R217). -/
theorem undefined_of_illegalPrefix {i : Instr}
    (hs : (∃ o, shapeOf i = .vex o) ∨ ∃ broadcast o, shapeOf i = .evex broadcast o)
    (h : (prefixesOf i).opsize = true ∨ (prefixesOf i).repne = true ∨ (prefixesOf i).rep = true ∨
      (prefixesOf i).rex = true) (s : State) : Undefined i s := by
  have hillegal : illegalBeforeVex (prefixesOf i) = true := by
    obtain h | h | h | h := h <;> simp [illegalBeforeVex, h]
  refine .inr ?_
  obtain ⟨o, hs⟩ | ⟨broadcast, o, hs⟩ := hs
  · rw [prefixesOf, hs] at hillegal
    rw [hs]
    exact .inl hillegal
  · rw [prefixesOf, hs] at hillegal
    rw [hs]
    exact .inl hillegal

theorem xcr0Avx_false_iff (s : State) :
    xcr0Avx s = false ↔ s.xcr0.getLsbD 1 = false ∨ s.xcr0.getLsbD 2 = false := by
  have bits : ∀ v : BitVec 2, (v == 3#2) = false ↔ v.getLsbD 0 = false ∨ v.getLsbD 1 = false := by decide
  rw [xcr0Avx, bits]
  simp

theorem xcr0Avx512_false_iff (s : State) :
    xcr0Avx512 s = false ↔
      s.xcr0.getLsbD 5 = false ∨ s.xcr0.getLsbD 6 = false ∨ s.xcr0.getLsbD 7 = false := by
  have bits : ∀ v : BitVec 3,
      (v == 7#3) = false ↔ v.getLsbD 0 = false ∨ v.getLsbD 1 = false ∨ v.getLsbD 2 = false := by decide
  rw [xcr0Avx512, bits]
  simp

/-- Of CR0 the conditions of `#UD` ask for `EM` alone. -/
theorem undefined_setCr0 {i : Instr} {s : State} {c : Qword} (em : c.getLsbD 2 = s.cr0.getLsbD 2)
    (h : Undefined i s) : Undefined i { s with cr0 := c } := by
  have hem : cr0Em { s with cr0 := c } = cr0Em s := em
  cases hs : shapeOf i <;> simp only [Undefined, hs, hem] at h ⊢ <;> exact h

/-! ## CR0 and CR4 -/

/-- The state with CR0 and CR4 replaced. -/
def withControl (c0 c4 : Qword) (s : State) : State := { s with cr0 := c0, cr4 := c4 }

section WithControl

variable {c0 c4 : Qword} {s : State}

/-- A memory read asks of CR0 whether alignment is checked, and of CR4 how long a linear address is. -/
theorem memRead_withControl (am : c0.getLsbD 18 = s.cr0.getLsbD 18) (la57 : c4.getLsbD 12 = s.cr4.getLsbD 12)
    (pl : Place) (n : Nat) (rule : AlignRule) (masked : Bool) (active : Nat → Bool) :
    memRead (withControl c0 c4 s) pl n rule masked active = memRead s pl n rule masked active := by
  have hcheck : alignCheckEnabled (withControl c0 c4 s) = alignCheckEnabled s := by
    have ham : cr0Am (withControl c0 c4 s) = cr0Am s := am
    simp only [alignCheckEnabled, ham]
    rfl
  have halign : alignmentStop (withControl c0 c4 s) pl n rule = alignmentStop s pl n rule := by
    cases rule <;> simp only [alignmentStop, hcheck] <;> rfl
  have hbad : badByte (withControl c0 c4 s) pl = badByte s pl := by
    have hla57 : cr4La57 (withControl c0 c4 s) = cr4La57 s := la57
    funext k
    simp only [badByte, linearBits, hla57]
    rfl
  have hphysical : bytePhysical (withControl c0 c4 s) pl = bytePhysical s pl := by
    funext k
    simp only [bytePhysical, hbad]
    rfl
  have hregion : byteRegion (withControl c0 c4 s) pl = byteRegion s pl := by
    funext k
    simp only [byteRegion, hphysical]
    rfl
  have hvalue : byteValue (withControl c0 c4 s) pl n = byteValue s pl n := by
    funext k
    simp only [byteValue, hphysical]
    rfl
  simp only [memRead, halign, hbad, hregion, hvalue]
  rfl

theorem sourceOf_withControl (am : c0.getLsbD 18 = s.cr0.getLsbD 18) (la57 : c4.getLsbD 12 = s.cr4.getLsbD 12)
    {w : Nat} (i : Instr) (value : List Byte → BitVec w) {register : State → BitVec w}
    (hregister : register (withControl c0 c4 s) = register s) :
    sourceOf i (withControl c0 c4 s) value register = sourceOf i s value register := by
  have hoperand : operandOf i (withControl c0 c4 s) = operandOf i s := rfl
  cases ho : operandOf i s with
  | none => rw [sourceOf_none ho, sourceOf_none (hoperand.trans ho), hregister]
  | some op =>
    rw [sourceOf_some ho, sourceOf_some (hoperand.trans ho)]
    exact congrArg (Except.map value) (memRead_withControl am la57 _ _ _ _ _)

/-- The VEX and EVEX forms read `TS` and `AM` of CR0 and `LA57` and `OSXSAVE` of CR4 (R212, R214). -/
theorem exec_withControl {i : Instr}
    (h : (∃ o, shapeOf i = .vex o) ∨ ∃ broadcast o, shapeOf i = .evex broadcast o)
    (ts : c0.getLsbD 3 = s.cr0.getLsbD 3) (am : c0.getLsbD 18 = s.cr0.getLsbD 18)
    (la57 : c4.getLsbD 12 = s.cr4.getLsbD 12) (osxsave : c4.getLsbD 18 = s.cr4.getLsbD 18) :
    exec i (withControl c0 c4 s) = mapNext (withControl c0 c4) (exec i s) := by
  have hts : cr0Ts (withControl c0 c4 s) = cr0Ts s := ts
  have hosxsave : cr4Osxsave (withControl c0 c4 s) = cr4Osxsave s := osxsave
  obtain ⟨o, hs⟩ | ⟨broadcast, o, hs⟩ := h
  · obtain ⟨flag, -, hrun⟩ := exec_of_vex hs
    rw [hrun, hrun]
    refine runVex_mapNext ?_ ?_ fun _ => rfl
    · simp only [checkVex, hts, hosxsave]
      rfl
    · rw [vexSource_eq hs, vexSource_eq hs]
      exact sourceOf_withControl am la57 i _ rfl
  · rw [exec_of_evex hs, exec_of_evex hs]
    refine runEvex_mapNext ?_ ?_ fun _ => rfl
    · simp only [checkEvex, hts, hosxsave]
      rfl
    · rw [evexSource_eq hs, evexSource_eq hs]
      exact sourceOf_withControl am la57 i _ rfl

end WithControl

/-- The VEX and EVEX forms do not read `CR0.EM` (R212). -/
theorem exec_setCr0 {i : Instr} (h : (∃ o, shapeOf i = .vex o) ∨ ∃ broadcast o, shapeOf i = .evex broadcast o)
    {s : State} {c : Qword} (hc : ∀ n, n ≠ 2 → c.getLsbD n = s.cr0.getLsbD n) :
    exec i { s with cr0 := c } = mapNext (fun t => { t with cr0 := c }) (exec i s) := by
  refine (exec_withControl (c4 := s.cr4) h (hc 3 (by decide)) (hc 18 (by decide)) rfl rfl).trans ?_
  refine mapNext_congr fun t ht => ?_
  rw [withControl, ← (exec_frame ht).cr4]

/-- The VEX and EVEX forms do not read `CR4.OSFXSR` (R214). -/
theorem exec_setCr4 {i : Instr} (h : (∃ o, shapeOf i = .vex o) ∨ ∃ broadcast o, shapeOf i = .evex broadcast o)
    {s : State} {c : Qword} (hc : ∀ n, n ≠ 9 → c.getLsbD n = s.cr4.getLsbD n) :
    exec i { s with cr4 := c } = mapNext (fun t => { t with cr4 := c }) (exec i s) := by
  refine (exec_withControl (c0 := s.cr0) h rfl rfl (hc 12 (by decide)) (hc 18 (by decide))).trans ?_
  refine mapNext_congr fun t ht => ?_
  rw [withControl, ← (exec_frame ht).cr0]

/-! ## Priority level 6 -/

/-- An operand whose alignment faults reports that fault, or the page fault of one of its bytes (R229). -/
theorem memRead_alignmentOrPageFault {s : State} {pl : Place} {n : Nat} {rule : AlignRule} {masked : Bool}
    {active : Nat → Bool} (good : ∀ k < n, badByte s pl k = false) {f : Fault}
    (ha : alignmentStop s pl n rule = .ok (some f)) :
    memRead s pl n rule masked active = .error (.fault f) ∨
      ∃ j < n, ∃ code, translate s (byteLinear s pl j) = .error code ∧
        memRead s pl n rule masked active = .error (.fault (.pageFault code (byteLinear s pl j))) := by
  cases hsix : levelSix s (some f) (operandPageFault s pl (countedBytes s n masked active)) with
  | none => cases ((levelSix_none_iff _ _ _).1 hsix).1
  | some g =>
    have hread := memRead_levelSix good ha hsix
    obtain hg | hg := levelSix_some _ _ _ _ hsix
    · cases hg
      exact .inl hread
    · obtain ⟨j, hj, code, hcode, rfl⟩ := operandPageFault_report hg
      exact .inr ⟨j, countedBytes_lt s n masked active j hj, code, hcode, hread⟩

end Sys2Proof.Machine
end

section
/-! PROOFS. The statements of 60_exceptions settled. -/

namespace Sys2Proof.Proofs

open Sys2Proof.Machine Sys2Proof.Safety

/-- Settles O20: every layout asks its conditions of `#UD` first, and no later check and no operand answers `#UD`. -/
theorem undefinedOpcodeExactly : Obligations.UndefinedOpcodeExactly := exec_undefined_iff

/-- Settles O21: `EM` is a condition of `#UD` in rows 1 to 4; rows 5 to 22 read `TS` and `AM` of CR0. -/
theorem undefinedByCr0Em : Obligations.UndefinedByCr0Em := by
  intro i s
  cases hs : shapeOf i with
  | mmx o =>
    intro hl hem
    exact (exec_undefined_iff i s).2 ⟨hl, .inr (by rw [hs]; exact .inr hem)⟩
  | sse o =>
    intro hl hem
    exact (exec_undefined_iff i s).2 ⟨hl, .inr (by rw [hs]; exact .inr (.inl hem))⟩
  | vex o => exact fun c hc => exec_setCr0 (.inl ⟨o, hs⟩) hc
  | evex broadcast o => exact fun c hc => exec_setCr0 (.inr ⟨broadcast, o, hs⟩) hc

/-- Settles O22: `OSFXSR` is a condition of `#UD` in rows 2 to 4; rows 5 to 22 read `LA57` and `OSXSAVE` of CR4. -/
theorem undefinedByCr4Osfxsr : Obligations.UndefinedByCr4Osfxsr := by
  intro i s
  cases hs : shapeOf i with
  | mmx o => trivial
  | sse o =>
    intro hl hosfxsr
    exact (exec_undefined_iff i s).2 ⟨hl, .inr (by rw [hs]; exact .inr (.inr hosfxsr))⟩
  | vex o => exact fun c hc => exec_setCr4 (.inl ⟨o, hs⟩) hc
  | evex broadcast o => exact fun c hc => exec_setCr4 (.inr ⟨broadcast, o, hs⟩) hc

/-- Settles O23: each bit named is one that the layout's conditions of `#UD` ask for. -/
theorem undefinedByXsaveState : Obligations.UndefinedByXsaveState := by
  intro i s hl
  cases hs : shapeOf i with
  | mmx o => trivial
  | sse o => trivial
  | vex o =>
    intro h
    rw [← xcr0Avx_false_iff] at h
    exact (exec_undefined_iff i s).2 ⟨hl, .inr (by rw [hs]; exact .inr h)⟩
  | evex broadcast o =>
    intro h
    rw [← or_assoc (b := s.xcr0.getLsbD 2 = false), ← xcr0Avx_false_iff, ← xcr0Avx512_false_iff] at h
    exact (exec_undefined_iff i s).2 ⟨hl, .inr (by rw [hs]; exact .inr (.inr h))⟩

/-- Settles O24: an absent flag is a condition of `#UD`; a broken implication refuses the launch state. -/
theorem undefinedByFeature : Obligations.UndefinedByFeature := by
  intro i s
  refine ⟨fun hl ⟨f, hf, hmissing⟩ => (exec_undefined_iff i s).2 ⟨hl, undefined_of_missing hf hmissing⟩, ?_⟩
  intro hmode htf hbreak hbroken
  have hopen : featuresClosed s.features = false := by
    obtain ⟨h, g⟩ | ⟨h, g⟩ | ⟨h, g⟩ | ⟨h, g⟩ | ⟨h, g⟩ | ⟨h, g⟩ | ⟨h, g⟩ := hbroken <;>
      simp [featuresClosed, h, g]
  exact exec_of_launchStop (launchStop_featuresNotClosed hmode htf hbreak hopen) i

/-- Settles O26: the prefixes are conditions of `#UD`, LOCK in every layout and the others in VEX and EVEX. -/
theorem undefinedByPrefix : Obligations.UndefinedByPrefix := by
  intro i s hl
  exact ⟨fun h => (exec_undefined_iff i s).2 ⟨hl, undefined_of_lock h s⟩,
    fun hs h => (exec_undefined_iff i s).2 ⟨hl, undefined_of_illegalPrefix hs h s⟩⟩

/-- Settles O29: `#NM` is the stop of `TS` after those of `#UD` and of row 1, and setting `TS` keeps `EM`. -/
theorem deviceNotAvailableByTs : Obligations.DeviceNotAvailableByTs := by
  intro i s
  constructor
  · have hexec := exec_later_iff (i := i) (s := s) (e := .fault .deviceNotAvailable) (.inr (.inl rfl)) (by simp)
    rw [laterStop_notAvailable_iff, ← and_assoc (a := ¬_), ← decodable_iff] at hexec
    exact hexec
  · rw [exec_undefined_iff, exec_undefined_iff]
    exact fun ⟨hl, hu⟩ => ⟨hl, undefined_setCr0 (by simp) hu⟩

/-- Settles O30: the pending x87 exception is row 1's last check, after those of `#UD`, R225 and `#NM`. -/
theorem mathFaultByPendingException : Obligations.MathFaultByPendingException := by
  refine ⟨fun o s => ⟨?fault, ?refusal⟩, ?others, fun s => ⟨rfl, rfl⟩⟩
  case fault =>
    have hexec := exec_later_iff (i := .pmaxswMmx o) (s := s) (e := .fault .mathFault) (.inr (.inr rfl)) (by simp)
    rw [laterStop_mathFault_iff rfl, ← and_assoc (a := ¬_), ← decodable_mmx_iff rfl] at hexec
    exact hexec
  case refusal =>
    have hexec := exec_later_iff (i := .pmaxswMmx o) (s := s) (e := .refuse .externalMathError) (.inr rfl) (by simp)
    rw [laterStop_externalMathError_iff rfl, ← and_assoc (a := ¬_), ← decodable_mmx_iff rfl] at hexec
    exact hexec
  case others =>
    intro i s hother h
    obtain ⟨-, -, hlater⟩ := (exec_later_iff (e := .fault .mathFault) (.inr (.inr rfl)) (by simp)).1 h
    exact laterStop_ne_of_not_mmx hother (by simp) hlater

/-- Settles O31: the refusal is the first of row 1's stops after those of `#UD`, and no other row's. -/
theorem rowOneWithoutOsfxsr : Obligations.RowOneWithoutOsfxsr := by
  constructor
  · intro o s
    have hexec := exec_later_iff (i := .pmaxswMmx o) (s := s) (e := .refuse .mmxWithoutOsfxsr) (.inl rfl) (by simp)
    rw [laterStop_withoutOsfxsr_iff rfl] at hexec
    exact hexec
  · intro i s hother h
    obtain ⟨-, -, hlater⟩ := (exec_later_iff (e := .refuse .mmxWithoutOsfxsr) (.inl rfl) (by simp)).1 h
    exact laterStop_ne_of_not_mmx hother (by simp) hlater

/-- Settles O37: the alignment rule of the form answers its fault, and level 6 reports that or a page fault. -/
theorem levelSixReportsOneThatHolds : Obligations.LevelSixReportsOneThatHolds := by
  intro i s op hready ho good _ f hf
  have hstop : alignmentStop s op.place op.bytes (alignRuleOf i) = .ok (some f) := by
    cases hs : shapeOf i with
    | mmx o =>
      rw [hs] at hf
      obtain ⟨rfl, hac⟩ := hf
      obtain ⟨hcheck, haddr⟩ := Classical.not_imp.1 hac
      rw [alignRuleOf, hs]
      exact alignmentStop_eight_unaligned hcheck haddr
    | sse o =>
      rw [hs] at hf
      obtain ⟨rfl, hbase, haddr⟩ := hf
      rw [alignRuleOf, hs]
      simp [alignmentStop, unaligned, hbase, haddr]
    | vex o =>
      rw [hs] at hf
      exact hf.elim
    | evex broadcast o =>
      rw [hs] at hf
      exact hf.elim
  obtain hread | ⟨k, hk, code, hcode, hread⟩ := memRead_alignmentOrPageFault good hstop
  · exact .inl (exec_of_operandRead_error hready ho hread)
  · exact .inr ⟨k, hk, code, hcode, exec_of_operandRead_error hready ho hread⟩

/-- Settles O40: these launch states stop the instruction and the step before anything else. -/
theorem refusedLaunchStates : Obligations.RefusedLaunchStates := by
  intro i s
  have stops : ∀ {r}, launchStop s = some r → exec i s = .refused r ∧ step s = .refused r :=
    fun h => ⟨exec_of_launchStop h i, step_refused h⟩
  exact ⟨fun h64 h32 => stops (launchStop_modeNotAdmitted h64 h32),
    fun hmode => ⟨fun htf => stops (launchStop_singleStep hmode htf),
      fun htf hbreak => stops (launchStop_breakpointEnabled hmode htf hbreak)⟩⟩

/-- Settles O41: the vectors and codes are read off the definitions, fault by fault. -/
theorem faultVectorsAndCodes : Obligations.FaultVectorsAndCodes :=
  ⟨rfl, rfl, rfl, rfl, rfl, rfl, rfl, rfl, fun _ _ => ⟨rfl, rfl⟩, rfl, rfl, rfl, rfl⟩

/-- Settles O42: a page fault alone has an address to record. -/
theorem faultRecordsOnlyCr2 : Obligations.FaultRecordsOnlyCr2 := by
  refine fun s => ⟨fun _ _ => rfl, fun f hf => ?_⟩
  cases f with
  | pageFault code a => exact absurd rfl (hf code a)
  | _ => rfl

end Sys2Proof.Proofs
end

section
/-! PROOFS. The boot operation sets and clears the control bits that the checks of 60_exceptions R230 ask for (70 R264 to
R267). -/

namespace Sys2Proof.Machine

open Sys2Proof.Safety

/-! ## Bits set and cleared -/

theorem getLsbD_setBits_of_set {bits : Qword} {n : Nat} (h : bits.getLsbD n = true) (w : Qword) :
    (setBits w bits).getLsbD n = true := by
  simp [setBits, h]

theorem getLsbD_clearBits_of_set {bits : Qword} {n : Nat} (h : bits.getLsbD n = true) (w : Qword) :
    (clearBits w bits).getLsbD n = false := by
  simp [clearBits, h]

/-! ## The control bits after boot -/

theorem boot_mode (s : State) : s.boot.mode = .long64 := rfl

theorem cr0Em_boot (s : State) : cr0Em s.boot = false :=
  getLsbD_clearBits_of_set (by decide) s.cr0

theorem cr0Ts_boot (s : State) : cr0Ts s.boot = false :=
  getLsbD_clearBits_of_set (by decide) s.cr0

theorem cr4Osfxsr_boot (s : State) : cr4Osfxsr s.boot = true :=
  getLsbD_setBits_of_set (by decide) s.cr4

theorem cr4Osxsave_boot (s : State) : cr4Osxsave s.boot = true :=
  getLsbD_setBits_of_set (by decide) s.cr4

/-- Boot enables the components 0, 1, 2, 5, 6 and 7 in XCR0 (70 R265, R266). -/
theorem boot_xcr0_getLsbD {n : Nat} (h : (0xE7 : Qword).getLsbD n = true) (s : State) :
    s.boot.xcr0.getLsbD n = true :=
  getLsbD_setBits_of_set h s.xcr0

theorem xcr0Avx_boot (s : State) : xcr0Avx s.boot = true := by
  rw [← Bool.not_eq_false, xcr0Avx_false_iff, boot_xcr0_getLsbD (by decide), boot_xcr0_getLsbD (by decide)]
  simp

theorem xcr0Avx512_boot (s : State) : xcr0Avx512 s.boot = true := by
  rw [← Bool.not_eq_false, xcr0Avx512_false_iff, boot_xcr0_getLsbD (by decide), boot_xcr0_getLsbD (by decide),
    boot_xcr0_getLsbD (by decide)]
  simp

theorem x87Pending_boot (s : State) : x87Pending s.boot = false := by
  have hboot : s.boot.x87Status = s.x87Status &&& 0xFF7F := rfl
  simp [x87Pending, hboot]

theorem eflagsTf_boot (s : State) : eflagsTf s.boot = false := by
  have hboot : s.boot.eflags = s.eflags &&& 0xFFFFFEFF := rfl
  simp [eflagsTf, hboot]

theorem breakpointOn_boot (s : State) : breakpointOn s.boot = false := by
  have cleared : ∀ n < 8, s.boot.dr7.getLsbD n = false := fun n hn =>
    getLsbD_clearBits_of_set ((by decide : ∀ n < 8, (0xFF : Qword).getLsbD n = true) n hn) s.dr7
  have henables : s.boot.dr7.extractLsb' 0 8 = 0 := by
    ext n hn
    simp [cleared n hn]
  simp [breakpointOn, henables]

/-- Boot leaves a state that the model admits (60_exceptions R240, R247, R213). -/
theorem launchable_boot {s : State} (hclosed : featuresClosed s.features = true) : Launchable s.boot :=
  ⟨.inl (boot_mode s), eflagsTf_boot s, breakpointOn_boot s, hclosed⟩

end Sys2Proof.Machine
end

section
/-! PROOFS. The statement of 70_reset_and_hazards settled. -/

namespace Sys2Proof.Proofs

open Sys2Proof.Machine Sys2Proof.Safety

/-- Settles O56: the boot operation sets each control bit that a check asks for, layout by layout. -/
theorem bootMakesFormsReady : Obligations.BootMakesFormsReady := by
  intro i s hclosed hfeatures hencoding
  have hlaunch := launchable_boot hclosed
  have hts := cr0Ts_boot s
  unfold Ready Decodable
  cases hs : shapeOf i with
  | mmx o =>
    rw [hs] at hencoding
    exact ⟨hlaunch, ⟨hfeatures, hencoding, cr0Em_boot s, cr4Osfxsr_boot s⟩, hts, x87Pending_boot s⟩
  | sse o =>
    rw [hs] at hencoding
    exact ⟨hlaunch, ⟨hfeatures, hencoding, cr0Em_boot s, cr4Osfxsr_boot s⟩, hts, trivial⟩
  | vex o =>
    rw [hs] at hencoding
    exact ⟨hlaunch, ⟨hfeatures, hencoding, cr4Osxsave_boot s, xcr0Avx_boot s⟩, hts, trivial⟩
  | evex broadcast o =>
    rw [hs] at hencoding
    obtain ⟨hprefixes, hallowed⟩ := hencoding
    have hcomponents := And.intro (xcr0Avx_boot s) (xcr0Avx512_boot s)
    exact ⟨hlaunch, ⟨hfeatures, hprefixes, hallowed, cr4Osxsave_boot s, hcomponents⟩, hts, trivial⟩

end Sys2Proof.Proofs
end
